-- ==== Sys2Proof/Word.lean ====
section
/-! DEFINITION. The word types of the CHIP-8 CORE (rules R14, R20, R24, R25, R34, R71). -/

namespace Sys2Proof

/-- A memory byte or the content of a general register (R20, R30). -/
abbrev Byte := BitVec 8

/-- The 16-bit values: I, PC, a stack slot, an instruction word, the key vector (R11, R24, R25, R28, R70). -/
abbrev Word := BitVec 16

/-- A register number, the 4-bit fields X and Y of R71: every value names a register (R20). -/
abbrev Reg := BitVec 4

/-- A key code 0x0..0xF (R11). -/
abbrev Key := BitVec 4

/-- The framebuffer FB, 64 x 32, one bit per pixel, row-major: FB[x + 64*y] is bit x of row y (R34). -/
abbrev Frame := Vector (BitVec 64) 32

/-- A font table: 16 glyphs of 5 bytes, digits 0 to F (R31). -/
abbrev Font := Vector Byte 80

/-- VF, the implicit flag register (R23). -/
abbrev vf : Reg := 0xF#4

end Sys2Proof
end

