-- ==== Sys2Proof/Config.lean ====
section
/-! DEFINITION. What the CORE's parameters are (rule R5): the fixed ones, and those the model takes as arguments with
their defaults (rule R31); the agents (rule R6); and the free values: what the spec leaves open and the model does not
fix (rules R7, R133, R182). -/

namespace Sys2Proof.Config

/-- RAM_SIZE (R5). -/
@[simp] abbrev ramSize : Nat := 4096
/-- RESERVED_TAIL, the last bytes of RAM, not addressable (R5, R50). -/
@[simp] abbrev reservedTail : Nat := 352
/-- PROG_BASE, where the image is loaded and PC starts (R5, R25). -/
@[simp] abbrev progBase : Nat := 0x200
/-- PROG_END, exclusive (R5). -/
@[simp] abbrev progEnd : Nat := ramSize - reservedTail
/-- FONT_BASE (R5). -/
@[simp] abbrev fontBase : Nat := 0x050
/-- FONT_END, exclusive (R5). -/
@[simp] abbrev fontEnd : Nat := 0x0A0
/-- GLYPH_BYTES (R5). -/
@[simp] abbrev glyphBytes : Nat := 5
/-- STACK_DEPTH (R5). -/
@[simp] abbrev stackDepth : Nat := 16
/-- FB_W (R5). -/
@[simp] abbrev fbWidth : Nat := 64
/-- FB_H (R5). -/
@[simp] abbrev fbHeight : Nat := 32
/-- NKEYS (R5). -/
@[simp] abbrev nKeys : Nat := 16
/-- MAX_IMAGE, the longest image the load port accepts (R5, R245). -/
@[simp] abbrev maxImage : Nat := progEnd - progBase
/-- TIMER_HZ (R5): timing only, no rule's result depends on it (R223). -/
def timerHz : Nat := 60

/-- The default of FONT, byte by byte (R31). PRESUMED: the bytes are the spec's default of R31, which it takes from
general knowledge (decision D8, log 3). -/
def fontBytes : List Byte :=
  [0xF0, 0x90, 0x90, 0x90, 0xF0] ++ [0x20, 0x60, 0x20, 0x20, 0x70] ++   -- 0 1
  [0xF0, 0x10, 0xF0, 0x80, 0xF0] ++ [0xF0, 0x10, 0xF0, 0x10, 0xF0] ++   -- 2 3
  [0x90, 0x90, 0xF0, 0x10, 0x10] ++ [0xF0, 0x80, 0xF0, 0x10, 0xF0] ++   -- 4 5
  [0xF0, 0x80, 0xF0, 0x90, 0xF0] ++ [0xF0, 0x10, 0x20, 0x40, 0x40] ++   -- 6 7
  [0xF0, 0x90, 0xF0, 0x90, 0xF0] ++ [0xF0, 0x90, 0xF0, 0x10, 0xF0] ++   -- 8 9
  [0xF0, 0x90, 0xF0, 0x90, 0x90] ++ [0xE0, 0x90, 0xE0, 0x90, 0xE0] ++   -- A B
  [0xF0, 0x80, 0x80, 0x80, 0xF0] ++ [0xE0, 0x90, 0x90, 0x90, 0xE0] ++   -- C D
  [0xF0, 0x80, 0xF0, 0x80, 0xF0] ++ [0xF0, 0x80, 0xF0, 0x80, 0x80]      -- E F

/-- The default of FONT as a table of 80 bytes (R31). -/
def font : Font := ⟨fontBytes.toArray, rfl⟩

/-- The parameters the model takes as arguments (R5, decisions D8 and D22; U10, U23). IMAGE, the third, is the argument
of the move load (R245). -/
structure Params where
  /-- FONT, preloaded at 0x050..0x09F (R31). -/
  font    : Font
  /-- INSTR_HZ, the rate of the instruction clock: timing only, no rule's result depends on it (R5, R260, log 24). -/
  instrHz : Nat
deriving DecidableEq, Repr

/-- The defaults: FONT of R31, INSTR_HZ = 500 (R5). -/
def defaults : Params := { font := font, instrHz := 500 }

/-- The three agents that change the CORE's state (R6). -/
inductive Agent where
  /-- The CPU (R6 a). -/
  | cpu
  /-- The DT driver (R6 b). -/
  | dtDriver
  /-- The ST driver (R6 c). -/
  | stDriver
deriving DecidableEq, Repr

/-- One turn of the free order: an agent's, or a change of the key state by the host (R7, R8, R11). -/
inductive Turn where
  | agent (a : Agent)
  | keys (k : Word)
deriving DecidableEq, Repr

/-- FREE VALUE (R7, U8, log 5): the turns that the n-th round of the free order begins with. The agents that have no
turn among them follow, so an order made of rounds is any order in which every agent steps again and again. No body. -/
opaque round : Nat → List Turn

/-- FREE VALUE (R133, U7, log 6): the byte the host's random source answers at its n-th draw. No body: nothing in
Lean can evaluate it. -/
opaque nextByte : Nat → Byte

/-- FREE VALUE (R182, U6, log 7): which of several held keys the host's firstKeyDown answers at its n-th answer, as
a place in the list of the held keys (taken modulo its length). No body. -/
opaque keyPick : Nat → Nat

end Sys2Proof.Config
end

