-- ==== Sys2Proof/Syntax.lean ====
section
/-! DEFINITION. The 34 instructions of rule R75, one constructor per row, in the table's order. Operands are the
fields of rule R71 at their own widths, so every term names a legal word (rules R20, R22, R73). -/

namespace Sys2Proof

/-- One constructor per row of the opcode map (R75). x, y: register fields X, Y. kk, nnn, n: the unsigned
immediates KK, NNN, N (R73). -/
inductive Instr where
  /-- 00E0, CLS (R160). -/
  | cls
  /-- 00EE, RET (R102). -/
  | ret
  /-- 1NNN, JP NNN (R100). -/
  | jp (nnn : BitVec 12)
  /-- 2NNN, CALL NNN (R101). -/
  | call (nnn : BitVec 12)
  /-- 3XKK, SE VX, KK (R104). -/
  | seImm (x : Reg) (kk : Byte)
  /-- 4XKK, SNE VX, KK (R105). -/
  | sneImm (x : Reg) (kk : Byte)
  /-- 5XY0, SE VX, VY (R106). -/
  | seReg (x y : Reg)
  /-- 6XKK, LD VX, KK (R122). -/
  | ldImm (x : Reg) (kk : Byte)
  /-- 7XKK, ADD VX, KK (R123). -/
  | addImm (x : Reg) (kk : Byte)
  /-- 8XY0, LD VX, VY (R124). -/
  | ldReg (x y : Reg)
  /-- 8XY1, OR VX, VY (R125). -/
  | orReg (x y : Reg)
  /-- 8XY2, AND VX, VY (R126). -/
  | andReg (x y : Reg)
  /-- 8XY3, XOR VX, VY (R127). -/
  | xorReg (x y : Reg)
  /-- 8XY4, ADD VX, VY (R128). -/
  | addReg (x y : Reg)
  /-- 8XY5, SUB VX, VY (R129). -/
  | subReg (x y : Reg)
  /-- 8XY6, SHR VX, VY (R130). -/
  | shrReg (x y : Reg)
  /-- 8XY7, SUBN VX, VY (R131). -/
  | subnReg (x y : Reg)
  /-- 8XYE, SHL VX, VY (R132). -/
  | shlReg (x y : Reg)
  /-- 9XY0, SNE VX, VY (R107). -/
  | sneReg (x y : Reg)
  /-- ANNN, LD I, NNN (R140). -/
  | ldI (nnn : BitVec 12)
  /-- BNNN, JP V0, NNN (R103). -/
  | jpV0 (nnn : BitVec 12)
  /-- CXKK, RND VX, KK (R133). -/
  | rnd (x : Reg) (kk : Byte)
  /-- DXYN, DRW VX, VY, N (R161). -/
  | drw (x y : Reg) (n : BitVec 4)
  /-- EX9E, SKP VX (R180). -/
  | skp (x : Reg)
  /-- EXA1, SKNP VX (R181). -/
  | sknp (x : Reg)
  /-- FX07, LD VX, DT (R183). -/
  | ldVxDt (x : Reg)
  /-- FX0A, LD VX, K (R182). -/
  | ldVxK (x : Reg)
  /-- FX15, LD DT, VX (R184). -/
  | ldDtVx (x : Reg)
  /-- FX18, LD ST, VX (R185). -/
  | ldStVx (x : Reg)
  /-- FX1E, ADD I, VX (R141). -/
  | addI (x : Reg)
  /-- FX29, LD F, VX (R142). -/
  | ldF (x : Reg)
  /-- FX33, LD B, VX (R143). -/
  | ldB (x : Reg)
  /-- FX55, LD [I], VX (R144). -/
  | storeRegs (x : Reg)
  /-- FX65, LD VX, [I] (R145). -/
  | loadRegs (x : Reg)
deriving DecidableEq, Repr

end Sys2Proof
end

