-- ==== Sys2Proof/Decode.lean ====
section
/-! DEFINITION. The decoder (rules R70 to R78), total on every word, and the encoder and the opcode map of rule R75. -/

namespace Sys2Proof

/-- OP = w[15:12] (R71). -/
def fieldOp (w : Word) : BitVec 4 := w.extractLsb' 12 4
/-- X = w[11:8] (R71). -/
def fieldX (w : Word) : Reg := w.extractLsb' 8 4
/-- Y = w[7:4] (R71). -/
def fieldY (w : Word) : Reg := w.extractLsb' 4 4
/-- N = w[3:0] (R71). -/
def fieldN (w : Word) : BitVec 4 := w.extractLsb' 0 4
/-- KK = w[7:0] (R71). -/
def fieldKK (w : Word) : Byte := w.extractLsb' 0 8
/-- NNN = w[11:0] (R71). -/
def fieldNNN (w : Word) : BitVec 12 := w.extractLsb' 0 12

/-- What the decoder answers: an instruction, or the rejection `UnknownInstruction` with the raw word (R77). -/
inductive Decoded where
  | instr (i : Instr)
  | unknownInstruction (w : Word)
deriving DecidableEq, Repr

/-- Family 0: the whole word is 0x00E0 or 0x00EE (R74, decision D4; R78: no other 0NNN exists). -/
def decodeFamily0 (w : Word) : Decoded :=
  if w = 0x00E0#16 then .instr .cls
  else if w = 0x00EE#16 then .instr .ret
  else .unknownInstruction w

/-- Family 5: w[3:0] must be 0 (R74). -/
def decodeFamily5 (w : Word) : Decoded :=
  if fieldN w = 0x0#4 then .instr (.seReg (fieldX w) (fieldY w)) else .unknownInstruction w

/-- Family 8: w[3:0] selects among 0..7 and 0xE (R74, R76). -/
def decodeFamily8 (w : Word) : Decoded :=
  match fieldN w with
  | 0x0#4 => .instr (.ldReg (fieldX w) (fieldY w))
  | 0x1#4 => .instr (.orReg (fieldX w) (fieldY w))
  | 0x2#4 => .instr (.andReg (fieldX w) (fieldY w))
  | 0x3#4 => .instr (.xorReg (fieldX w) (fieldY w))
  | 0x4#4 => .instr (.addReg (fieldX w) (fieldY w))
  | 0x5#4 => .instr (.subReg (fieldX w) (fieldY w))
  | 0x6#4 => .instr (.shrReg (fieldX w) (fieldY w))
  | 0x7#4 => .instr (.subnReg (fieldX w) (fieldY w))
  | 0xE#4 => .instr (.shlReg (fieldX w) (fieldY w))
  | _ => .unknownInstruction w

/-- Family 9: w[3:0] must be 0 (R74). -/
def decodeFamily9 (w : Word) : Decoded :=
  if fieldN w = 0x0#4 then .instr (.sneReg (fieldX w) (fieldY w)) else .unknownInstruction w

/-- Family E: w[7:0] selects (R74). -/
def decodeFamilyE (w : Word) : Decoded :=
  match fieldKK w with
  | 0x9E#8 => .instr (.skp (fieldX w))
  | 0xA1#8 => .instr (.sknp (fieldX w))
  | _ => .unknownInstruction w

/-- Family F: w[7:0] selects (R74). -/
def decodeFamilyF (w : Word) : Decoded :=
  match fieldKK w with
  | 0x07#8 => .instr (.ldVxDt (fieldX w))
  | 0x0A#8 => .instr (.ldVxK (fieldX w))
  | 0x15#8 => .instr (.ldDtVx (fieldX w))
  | 0x18#8 => .instr (.ldStVx (fieldX w))
  | 0x1E#8 => .instr (.addI (fieldX w))
  | 0x29#8 => .instr (.ldF (fieldX w))
  | 0x33#8 => .instr (.ldB (fieldX w))
  | 0x55#8 => .instr (.storeRegs (fieldX w))
  | 0x65#8 => .instr (.loadRegs (fieldX w))
  | _ => .unknownInstruction w

/-- Decode a word: the top nibble selects the family, a family of several forms sub-dispatches (R74). Every top
nibble has a defined instruction (R74, conflict C2); the last arm is 0xF, the only nibble left. -/
def decode (w : Word) : Decoded :=
  match fieldOp w with
  | 0x0#4 => decodeFamily0 w
  | 0x1#4 => .instr (.jp (fieldNNN w))
  | 0x2#4 => .instr (.call (fieldNNN w))
  | 0x3#4 => .instr (.seImm (fieldX w) (fieldKK w))
  | 0x4#4 => .instr (.sneImm (fieldX w) (fieldKK w))
  | 0x5#4 => decodeFamily5 w
  | 0x6#4 => .instr (.ldImm (fieldX w) (fieldKK w))
  | 0x7#4 => .instr (.addImm (fieldX w) (fieldKK w))
  | 0x8#4 => decodeFamily8 w
  | 0x9#4 => decodeFamily9 w
  | 0xA#4 => .instr (.ldI (fieldNNN w))
  | 0xB#4 => .instr (.jpV0 (fieldNNN w))
  | 0xC#4 => .instr (.rnd (fieldX w) (fieldKK w))
  | 0xD#4 => .instr (.drw (fieldX w) (fieldY w) (fieldN w))
  | 0xE#4 => decodeFamilyE w
  | _ => decodeFamilyF w

/-- An instruction word from its two bytes in address order, the byte at the lower address the high byte (R58). -/
def wordOfBytes (first second : Byte) : Word := first ++ second

/-- The first (high, lower-addressed) byte of a word (R58). -/
def firstByte (w : Word) : Byte := w.extractLsb' 8 8
/-- The second (low, higher-addressed) byte of a word (R58). -/
def secondByte (w : Word) : Byte := w.extractLsb' 0 8

/-- Decode the two bytes of an instruction as they stand in RAM (R58, R70). -/
def decodeBytes (first second : Byte) : Decoded := decode (wordOfBytes first second)

/-- The host's question: the instruction read from an instruction whose bits are w. There is one length, 16 bits
(R70), so nbits says nothing more; the word is laid out high byte first (R58) and given to the decoder. -/
def decodeTableWord (_nbits w : Nat) : Option Instr :=
  match decodeBytes (firstByte (BitVec.ofNat 16 w)) (secondByte (BitVec.ofNat 16 w)) with
  | .instr i => some i
  | .unknownInstruction _ => none

/-- The layout NNN: opcode nibble, 12-bit address (R72). -/
def encodeNNN (op : BitVec 4) (nnn : BitVec 12) : Word := op ++ nnn
/-- The layout XKK: opcode nibble, X, 8-bit immediate (R72). -/
def encodeXKK (op : BitVec 4) (x : Reg) (kk : Byte) : Word := op ++ (x ++ kk)
/-- The layouts XY_ and XYN: opcode nibble, X, Y, low nibble (R72). -/
def encodeXYN (op : BitVec 4) (x y : Reg) (n : BitVec 4) : Word := op ++ (x ++ (y ++ n))

/-- The word of an instruction, from the formats of R72 and the map of R75. -/
def encode : Instr → Word
  | .cls => 0x00E0#16
  | .ret => 0x00EE#16
  | .jp nnn => encodeNNN 0x1#4 nnn
  | .call nnn => encodeNNN 0x2#4 nnn
  | .seImm x kk => encodeXKK 0x3#4 x kk
  | .sneImm x kk => encodeXKK 0x4#4 x kk
  | .seReg x y => encodeXYN 0x5#4 x y 0x0#4
  | .ldImm x kk => encodeXKK 0x6#4 x kk
  | .addImm x kk => encodeXKK 0x7#4 x kk
  | .ldReg x y => encodeXYN 0x8#4 x y 0x0#4
  | .orReg x y => encodeXYN 0x8#4 x y 0x1#4
  | .andReg x y => encodeXYN 0x8#4 x y 0x2#4
  | .xorReg x y => encodeXYN 0x8#4 x y 0x3#4
  | .addReg x y => encodeXYN 0x8#4 x y 0x4#4
  | .subReg x y => encodeXYN 0x8#4 x y 0x5#4
  | .shrReg x y => encodeXYN 0x8#4 x y 0x6#4
  | .subnReg x y => encodeXYN 0x8#4 x y 0x7#4
  | .shlReg x y => encodeXYN 0x8#4 x y 0xE#4
  | .sneReg x y => encodeXYN 0x9#4 x y 0x0#4
  | .ldI nnn => encodeNNN 0xA#4 nnn
  | .jpV0 nnn => encodeNNN 0xB#4 nnn
  | .rnd x kk => encodeXKK 0xC#4 x kk
  | .drw x y n => encodeXYN 0xD#4 x y n
  | .skp x => encodeXKK 0xE#4 x 0x9E#8
  | .sknp x => encodeXKK 0xE#4 x 0xA1#8
  | .ldVxDt x => encodeXKK 0xF#4 x 0x07#8
  | .ldVxK x => encodeXKK 0xF#4 x 0x0A#8
  | .ldDtVx x => encodeXKK 0xF#4 x 0x15#8
  | .ldStVx x => encodeXKK 0xF#4 x 0x18#8
  | .addI x => encodeXKK 0xF#4 x 0x1E#8
  | .ldF x => encodeXKK 0xF#4 x 0x29#8
  | .ldB x => encodeXKK 0xF#4 x 0x33#8
  | .storeRegs x => encodeXKK 0xF#4 x 0x55#8
  | .loadRegs x => encodeXKK 0xF#4 x 0x65#8

/-- The opcode map of R75 as (match, mask), its 34 rows in the table's order: the independent account that the
decoder is held against. -/
def opcodeMap : List (Word × Word) :=
  [(0x00E0, 0xFFFF), (0x00EE, 0xFFFF), (0x1000, 0xF000), (0x2000, 0xF000), (0x3000, 0xF000), (0x4000, 0xF000)] ++
  [(0x5000, 0xF00F), (0x6000, 0xF000), (0x7000, 0xF000), (0x8000, 0xF00F), (0x8001, 0xF00F), (0x8002, 0xF00F)] ++
  [(0x8003, 0xF00F), (0x8004, 0xF00F), (0x8005, 0xF00F), (0x8006, 0xF00F), (0x8007, 0xF00F), (0x800E, 0xF00F)] ++
  [(0x9000, 0xF00F), (0xA000, 0xF000), (0xB000, 0xF000), (0xC000, 0xF000), (0xD000, 0xF000), (0xE09E, 0xF0FF)] ++
  [(0xE0A1, 0xF0FF), (0xF007, 0xF0FF), (0xF00A, 0xF0FF), (0xF015, 0xF0FF), (0xF018, 0xF0FF), (0xF01E, 0xF0FF)] ++
  [(0xF029, 0xF0FF), (0xF033, 0xF0FF), (0xF055, 0xF0FF), (0xF065, 0xF0FF)]

/-- The place of an instruction's row in the opcode map of R75, counted from 0. -/
def rowIndex : Instr → Nat
  | .cls => 0 | .ret => 1 | .jp _ => 2 | .call _ => 3 | .seImm _ _ => 4 | .sneImm _ _ => 5
  | .seReg _ _ => 6 | .ldImm _ _ => 7 | .addImm _ _ => 8 | .ldReg _ _ => 9 | .orReg _ _ => 10 | .andReg _ _ => 11
  | .xorReg _ _ => 12 | .addReg _ _ => 13 | .subReg _ _ => 14 | .shrReg _ _ => 15 | .subnReg _ _ => 16 | .shlReg _ _ => 17
  | .sneReg _ _ => 18 | .ldI _ => 19 | .jpV0 _ => 20 | .rnd _ _ => 21 | .drw _ _ _ => 22 | .skp _ => 23
  | .sknp _ => 24 | .ldVxDt _ => 25 | .ldVxK _ => 26 | .ldDtVx _ => 27 | .ldStVx _ => 28 | .addI _ => 29
  | .ldF _ => 30 | .ldB _ => 31 | .storeRegs _ => 32 | .loadRegs _ => 33

/-- A word matches a row of the opcode map exactly when (w & mask) = match (R75). -/
def matchesRow (w : Word) (row : Word × Word) : Bool := w &&& row.2 == row.1

end Sys2Proof
end

