-- ==== Sys2Proof/Machine/State.lean ====
section
/-! DEFINITION. The state of the CORE as plain data (rules R20 to R39), the fatal conditions (rules R200 to R210), the
moves of the agents and the host (rules R6 to R9), the reasons a step can stop, and the state after reset (R39). -/

namespace Sys2Proof.Machine

/-- The nine fatal conditions, in the order of their codes 1 to 9 (R200). -/
inductive Cause where
  /-- R201: register index outside 0..15. No instruction can produce one (R22, log 25). -/
  | invalidRegister
  /-- R202: FX29 with V[X] > 15. -/
  | invalidDigit
  /-- R203: 2NNN with SP = 16. -/
  | stackOverflow
  /-- R204: DXYN, FX33, FX55, FX65 with some address of the span not addressable. -/
  | memoryProtectionViolation
  /-- R205: the word matches no defined pattern. -/
  | unknownInstruction
  /-- R206: the image is longer than 3232 bytes. -/
  | programTooLarge
  /-- R207: fetch with PC outside 0x200..0xE9E. -/
  | fetchOutOfBounds
  /-- R208: DXYN with (VY mod 32) + N > 32. -/
  | drawVerticalOverrun
  /-- R209: EX9E, EXA1 with V[X] > 15. -/
  | invalidKey
deriving DecidableEq, Repr

/-- The fault record (R210): opcode absent for FetchOutOfBounds and ProgramTooLarge, pc absent for ProgramTooLarge. -/
structure FaultRecord where
  cause  : Cause
  opcode : Option Word
  pc     : Option Word
deriving DecidableEq, Repr

/-- The CPU's run state RUN (R37). -/
inductive RunState where
  /-- The next CPU step fetches at PC. -/
  | running
  /-- An FX0A waits for a key, to be written to V[x] (R182). -/
  | waitKey (x : Reg)
  /-- A fatal condition was raised: no agent steps until reset (R211). -/
  | halted (r : FaultRecord)
deriving DecidableEq, Repr

/-- One move of an agent of the CORE (R6) or of the host (R8): the total order of steps (R7) as plain data. -/
inductive Move where
  /-- instr_tick: one CPU step (R9, R230, R231). -/
  | instrTick
  /-- dt_tick: one step of the DT driver (R221). -/
  | dtTick
  /-- st_tick: one step of the ST driver (R221). -/
  | stTick
  /-- The host changes the key state (R11, decision D29). -/
  | keys (k : Word)
  /-- The host presents the program image (R10, R245). -/
  | load (image : List Byte)
  /-- The host applies reset (R240, decision D26). -/
  | reset
  /-- The host requests shutdown (R8, U20). -/
  | shutdown
deriving DecidableEq, Repr

/-- RAM as the cells that differ from what an unlisted address reads as (R30, log 1): strictly rising addresses. -/
abbrev Memory := List Host.Cell

/-- All the CORE's state (R20 to R38), the host's key state (R11), the parameters the model takes as arguments (R5), and
the model's own bookkeeping (the last five). -/
structure State where
  /-- V[0..15], the general registers; V[15] is VF (R20, R23). -/
  v        : Vector Byte 16
  /-- I, the index register (R24). -/
  i        : Word
  /-- PC, a byte address into RAM (R25). -/
  pc       : Word
  /-- SP, the number of saved return addresses, 0..16 (R28). -/
  sp       : Fin 17
  /-- STACK[0..15], live below SP (R28). -/
  stack    : Vector Word 16
  /-- DT, the delay timer; its driver runs exactly when it is not 0 (R32, R36). -/
  dt       : Byte
  /-- ST, the sound timer; its driver runs exactly when it is not 0 (R32, R36). -/
  st       : Byte
  /-- RAM[0..4095] (R30). -/
  mem      : Memory
  /-- FB[0..2047], row-major, FB[x + 64*y] is bit x of row y (R34). -/
  fb       : Frame
  /-- RUN (R37); the FATAL output is the record in it (R13). -/
  run      : RunState
  /-- KEYS, the host's key state as it stands now: bit c set when key c is held (R11). -/
  keys     : Word
  /-- FONT and INSTR_HZ, the parameters the machine was built with: nothing changes them (R5). -/
  params   : Config.Params
  /-- The model's own: the image may still be loaded, "after reset and before the first CPU step" (R245, log 20). -/
  loadOpen : Bool
  /-- The model's own: the moves to come, next first; with none listed the next round of the free order is drawn (R7,
  log 5). -/
  schedule : List Move
  /-- The model's own: how many rounds of the free order have been drawn (R7, log 5). -/
  rounds   : Nat
  /-- The model's own: how many bytes the random source has answered (R133, log 6). -/
  draws    : Nat
  /-- The model's own: how many answers of firstKeyDown have been stored (R182, log 7). -/
  keyPicks : Nat
deriving DecidableEq, Repr

/-- Why the machine stops. Every fatal condition of the spec is TAKEN as a next state (log 10); this is the stop of
a machine that has already halted. -/
inductive Fault where
  /-- Raised by the CPU step of a halted CORE: no agent steps again until reset (R211, R213, U18). Safe: the
  hardware does not step either. -/
  | halted (r : FaultRecord)
deriving DecidableEq, Repr

/-- What the model gives no next state. -/
inductive Refusal where
  /-- Raised by exec for an instruction without a meaning. Safe. No arm uses it. -/
  | notModelled (mnemonic : String)
  /-- Raised by the move load when the image was already loaded or the CPU has stepped: the host must never do it,
  and the spec gives it no effect (R8, R245, U21). Safe. -/
  | loadAfterStart
  /-- Raised by the move shutdown: it ends the run and the spec gives no state that it leaves (R8, U20, N4). Safe. -/
  | shutDown
deriving DecidableEq, Repr

/-- The outcome of a step. -/
abbrev Result := Host.Outcome State Fault Refusal

/-- The machine right after reset, before the image load, for given parameters (R5, R39). Only PC and the presence of
the font are stated by the source; the rest is DESIGN CHOICE (decisions D6, D7; log 1, 2, 4, 5, 8, 20). -/
def State.resetWith (p : Config.Params) : State where
  v        := Vector.replicate 16 0x00#8
  i        := 0x0000#16
  pc       := 0x0200#16
  sp       := 0
  stack    := Vector.replicate 16 0x0000#16
  dt       := 0x00#8
  st       := 0x00#8
  mem      := []
  fb       := Vector.replicate 32 0#64
  run      := .running
  keys     := 0x0000#16
  params   := p
  loadOpen := true
  schedule := []
  rounds   := 0
  draws    := 0
  keyPicks := 0

/-- The machine right after reset with the default parameters (R5, R31, R39). -/
def State.reset : State := State.resetWith Config.defaults

end Sys2Proof.Machine
end

