-- ==== Sys2Proof/WellFormed.lean ====
section
/-! DEFINITION. Well-formedness of what reaches the CORE from outside: an instruction and a program image. -/

namespace Sys2Proof

/-- An instruction is well formed when each operand fits its field (R71, R73). The operand types ARE the fields, and
the spec calls no operand value of a defined pattern illegal (R20, R22, R73), so there is nothing left to check. -/
def Instr.wellFormed : Instr → Bool
  | .cls | .ret => true
  | .jp _ | .call _ | .ldI _ | .jpV0 _ => true
  | .seImm _ _ | .sneImm _ _ | .ldImm _ _ | .addImm _ _ | .rnd _ _ => true
  | .seReg _ _ | .sneReg _ _ | .ldReg _ _ | .orReg _ _ | .andReg _ _ | .xorReg _ _ => true
  | .addReg _ _ | .subReg _ _ | .shrReg _ _ | .subnReg _ _ | .shlReg _ _ => true
  | .drw _ _ _ => true
  | .skp _ | .sknp _ | .ldVxDt _ | .ldVxK _ | .ldDtVx _ | .ldStVx _ => true
  | .addI _ | .ldF _ | .ldB _ | .storeRegs _ | .loadRegs _ => true

/-- A program image is well formed when it does not extend past the program region: L <= 3232, any parity, empty
allowed (R245, decision D27). -/
def imageFits (image : List Byte) : Bool := decide (image.length ≤ Config.maxImage)

/-- A font table is well formed when it has GLYPH_COUNT * GLYPH_BYTES = 80 bytes (R5, R31). -/
def fontFits (f : List Byte) : Bool := decide (f.length = Config.fontEnd - Config.fontBase)

end Sys2Proof
end

