-- ==== Sys2Proof/Machine/Ops.lean ====
section
/-! DEFINITION. The named operations over registers, the call stack, RAM, the framebuffer and the host's oracles, and
the one operation that enters the Halted state (rule R211). There is no return from it (rule R213). -/

namespace Sys2Proof.Machine

/-! ## Registers (R15, R20, R24, R25) -/

/-- V[x]. A 4-bit index is in 0..15, so InvalidRegister has no site (R22, decision D32, log 25). -/
def State.getV (s : State) (x : Reg) : Byte := s.v[x.toNat]'x.isLt

/-- V[x] <- b. -/
def State.setV (s : State) (x : Reg) (b : Byte) : State := { s with v := s.v.set x.toNat b x.isLt }

/-- V[k], V[k+1], ... <- the bytes, in order (R145). -/
def State.setVsFrom (k : Nat) : List Byte → State → State
  | [], s => s
  | b :: bs, s => State.setVsFrom (k + 1) bs (s.setV (BitVec.ofNat 4 k) b)

/-- I <- a. -/
def State.setI (s : State) (a : Word) : State := { s with i := a }

/-- writePC(a): PC <- a (R25). -/
def State.setPc (s : State) (a : Word) : State := { s with pc := a }

/-- advancePC(): PC <- PC + 2, modulo 65536 (R25, decision D20). The fetch advance, and a skip (R26, R108). -/
def State.advancePc (s : State) : State := { s with pc := s.pc + 2#16 }

/-- PC0, the address the executing instruction was fetched from: PC is PC0 + 2 while it executes (R18, R26). -/
def State.pc0 (s : State) : Word := s.pc - 2#16

/-- DT <- b; the DT driver runs exactly when b is not 0 (R36, R184). -/
def State.setDt (s : State) (b : Byte) : State := { s with dt := b }

/-- ST <- b; the ST driver runs exactly when b is not 0 (R36, R185). -/
def State.setSt (s : State) (b : Byte) : State := { s with st := b }

/-- RUN <- r (R37). -/
def State.setRun (s : State) (r : RunState) : State := { s with run := r }

/-- The CPU has begun to step: the host may no longer load an image (R245, R8). -/
def State.startRun (s : State) : State := { s with loadOpen := false }

/-! ## Fatal conditions (R210, R211) -/

/-- Entering Halted: RUN <- Halted(record), and nothing else (R211). The ONE way a fatal condition is taken. -/
def State.halt (s : State) (r : FaultRecord) : State := { s with run := .halted r }

/-- `raise <Cause>(opcode = w, pc = PC0)` by an executing instruction: precise, and PC stays PC0 + 2 (R210, R211). -/
def raise (c : Cause) (i : Instr) (s : State) : Result :=
  .next (s.halt ⟨c, some (encode i), some s.pc0⟩)

/-! ## The call stack (R28, R29) -/

/-- pushReturn without the jump: STACK[SP] <- PC, SP <- SP + 1; none when SP = 16 (R101). -/
def State.pushReturn (s : State) : Option State :=
  if h : s.sp.val < 16 then
    some { s with stack := s.stack.set s.sp.val s.pc h, sp := ⟨s.sp.val + 1, by omega⟩ }
  else none

/-- popReturn(): when SP > 0, SP <- SP - 1 and PC <- STACK[SP]; when SP = 0 nothing (R102). -/
def State.popReturn (s : State) : State :=
  if h : 0 < s.sp.val then
    { s with sp := ⟨s.sp.val - 1, by omega⟩, pc := s.stack[s.sp.val - 1]'(by omega) }
  else s

/-! ## RAM (R30, R50 to R61) -/

/-- What a byte that nothing has written reads as: the font f at 0x050..0x09F, 0x00 elsewhere (R30, R31; the zeros are
DESIGN CHOICE, log 1). -/
def Memory.unlisted (f : Font) (a : Nat) : Byte :=
  if h : Config.fontBase ≤ a ∧ a < Config.fontEnd then
    f[a - Config.fontBase]'(by simp only [Config.fontBase, Config.fontEnd] at h ⊢; omega)
  else 0x00#8

/-- RAM[a], no check (R15). -/
def Memory.read (f : Font) : Memory → Nat → Byte
  | [], a => Memory.unlisted f a
  | c :: m, a => if c.1 = a then c.2 else Memory.read f m a

/-- RAM[a] <- b, no check, keeping the canonical form: a cell that reads as an unlisted one is not listed. -/
def Memory.write (f : Font) : Memory → Nat → Byte → Memory
  | [], a, b => if b = Memory.unlisted f a then [] else [(a, b)]
  | c :: m, a, b =>
    if a < c.1 then (if b = Memory.unlisted f a then c :: m else (a, b) :: c :: m)
    else if a = c.1 then (if b = Memory.unlisted f a then m else (a, b) :: m)
    else c :: Memory.write f m a b

/-- RAM[a], RAM[a+1], ... <- the bytes, in order, no check (R55, R58). -/
def Memory.writeAll (f : Font) (m : Memory) (a : Nat) : List Byte → Memory
  | [] => m
  | b :: bs => Memory.writeAll f (m.write f a b) (a + 1) bs

/-- RAM[a..a+n-1] in address order, no check (R15). -/
def Memory.readAll (f : Font) (m : Memory) (a : Nat) : Nat → List Byte
  | 0 => []
  | n + 1 => m.read f a :: Memory.readAll f m (a + 1) n

/-- The canonical form: strictly rising addresses inside RAM, no cell equal to what an unlisted one reads as. -/
def Memory.wf (f : Font) : Memory → Bool
  | [] => true
  | c :: m =>
    decide (c.1 < Config.ramSize) && (c.2 != Memory.unlisted f c.1) && m.all (fun d => decide (c.1 < d.1)) &&
      Memory.wf f m

/-- RAM[a] as the machine stands, over its own font, no check (R15). -/
def State.read (s : State) (a : Nat) : Byte := s.mem.read s.params.font a

/-- RAM[a], RAM[a+1], ... <- the bytes, no check (R55, R245). -/
def State.store (s : State) (a : Nat) (bytes : List Byte) : State :=
  { s with mem := s.mem.writeAll s.params.font a bytes }

/-- RAM is in its canonical form. -/
def State.ramWf (s : State) : Bool := s.mem.wf s.params.font

/-- isAddressable(a), for a natural number (R53). -/
def isAddressable (a : Nat) : Bool :=
  decide (Config.progBase ≤ a ∧ a < Config.progEnd) || decide (Config.fontBase ≤ a ∧ a < Config.fontEnd)

/-- Every address a..a+n-1 is addressable; an empty span passes (R55, decision D12). -/
def spanAddressable (a n : Nat) : Bool := (List.range n).all fun k => isAddressable (a + k)

/-- MemRead(a, n): the bytes, or none when the span fails the check (R55). -/
def State.memRead (s : State) (a n : Nat) : Option (List Byte) :=
  if spanAddressable a n then some (s.mem.readAll s.params.font a n) else none

/-- MemWrite(a, n, bytes): the state with the bytes written, or none when the span fails the check (R55). -/
def State.memWrite (s : State) (a : Nat) (bytes : List Byte) : Option State :=
  if spanAddressable a bytes.length then some (s.store a bytes) else none

/-- A fetch at PC is permitted: PC and PC + 1 in the program region, 0x200 <= PC <= 0xE9E (R54). -/
def fetchable (pc : Word) : Bool := decide (Config.progBase ≤ pc.toNat ∧ pc.toNat + 1 < Config.progEnd)

/-- The word at PC, big-endian (R58). -/
def State.fetchWord (s : State) : Word := wordOfBytes (s.read s.pc.toNat) (s.read (s.pc.toNat + 1))

/-! ## The framebuffer (R34) -/

/-- FB <- f. -/
def State.setFb (s : State) (f : Frame) : State := { s with fb := f }

/-- The index of column x of row y (R34). -/
def pixelIndex (x y : Nat) : Nat := x + y * Config.fbWidth

/-- FB[k], for k in 0..2047 (R15, R34). -/
def pixel (f : Frame) (k : Nat) : Bool :=
  if h : k / Config.fbWidth < 32 then (f[k / Config.fbWidth]'h).getLsbD (k % Config.fbWidth) else false

/-- FB[k] <- FB[k] ^ 1, for k in 0..2047 (R162). -/
def flipPixel (f : Frame) (k : Nat) : Frame :=
  if h : k / Config.fbWidth < 32 then
    f.set (k / Config.fbWidth) (f[k / Config.fbWidth]'h ^^^ BitVec.twoPow 64 (k % Config.fbWidth)) h
  else f

/-- Every pixel off (R160). -/
def blankFrame : Frame := Vector.replicate 32 0#64

/-- render(): the pixel at column x of row y as the host sees it between two steps; reading changes nothing
(R12, R34, R65). -/
def State.render (s : State) (x y : Nat) : Bool := pixel s.fb (pixelIndex x y)

/-! ## The host's oracles and the status outputs (R11, R13) -/

/-- isKeyDown(c) = KEYS[c] (R11). -/
def State.isKeyDown (s : State) (c : Key) : Bool := s.keys.getLsbD c.toNat

/-- The codes of the keys that are down, rising. -/
def State.keysDown (s : State) : List Key := ((List.range Config.nKeys).map (BitVec.ofNat 4)).filter s.isKeyDown

/-- firstKeyDown(): none when KEYS = 0, else the code of a key that is down; which one, when several are, is the
host's choice, a FREE VALUE (R11, R182, decision D14, U6, log 7). -/
def State.firstKeyDown (s : State) : Option Key :=
  match s.keysDown with
  | [] => none
  | [k] => some k
  | k :: k' :: ks => some ((k :: k' :: ks).getD (Config.keyPick s.keyPicks % (ks.length + 2)) k)

/-- An answer of firstKeyDown was stored: the next one is asked afresh (log 7). -/
def State.keyPicked (s : State) : State := { s with keyPicks := s.keyPicks + 1 }

/-- nextByte(): a byte the CORE does not determine, a FREE VALUE (R11, R133, U7, log 6). -/
def State.nextByte (s : State) : Byte := Config.nextByte s.draws

/-- A byte was drawn: the next one is drawn afresh (R133, log 6). -/
def State.drawn (s : State) : State := { s with draws := s.draws + 1 }

/-- The DT driver is running (R36). -/
def State.dtRunning (s : State) : Bool := s.dt != 0x00#8

/-- The ST driver is running (R36). -/
def State.stRunning (s : State) : Bool := s.st != 0x00#8

/-- The status output SOUND_ON (R13, decision D23). -/
def State.soundOn (s : State) : Bool := s.st != 0x00#8

/-- RUN is Halted (R37). -/
def State.isHalted (s : State) : Bool :=
  match s.run with
  | .halted _ => true
  | .running | .waitKey _ => false

/-- The status output FATAL: absent while the CORE runs, after a fatal condition its record (R13). -/
def State.fatal (s : State) : Option FaultRecord :=
  match s.run with
  | .halted r => some r
  | .running | .waitKey _ => none

end Sys2Proof.Machine
end

