-- ==== Sys2Proof/Machine/Flags.lean ====
section
/-! DEFINITION. Every value written to VF as a flag (rules R23, R121, R128 to R132, R161), and the write of a result
together with its flag. -/

namespace Sys2Proof.Machine

/-- A condition as the byte 1 or 0 (R23; for the collision flag decision D11, log 17). -/
def flagOf (c : Bool) : Byte := if c then 0x01#8 else 0x00#8

/-- 8XY4: 1 when the unwrapped sum exceeds 255 (R128). -/
def carryFlag (a b : Byte) : Byte := flagOf (decide (255 < a.toNat + b.toNat))

/-- 8XY5 and 8XY7: 1 when the minuend is strictly greater than the subtrahend, so 0 on equality (R129, R131,
conflict C3, log 30). -/
def greaterFlag (minuend subtrahend : Byte) : Byte := flagOf (decide (subtrahend.toNat < minuend.toNat))

/-- 8XY6: bit 0 of the source, 0 or 1 (R130). -/
def lowBitFlag (b : Byte) : Byte := b &&& 0x01#8

/-- 8XYE: bit 7 of the source where it stands, 0x00 or 0x80, not normalised (R132). -/
def highBitFlag (b : Byte) : Byte := b &&& 0x80#8

/-- The result to V[X] first, the flag to VF second: with X = F the flag remains (R121, decision D3, log 14). -/
def State.setResultFlag (s : State) (x : Reg) (result flag : Byte) : State := (s.setV x result).setV vf flag

end Sys2Proof.Machine
end

