-- ==== Sys2Proof/Machine/Operands.lean ====
section
/-! DEFINITION. The operand forms of rules R73 and R146: immediates, registers, the register range V0..VX, the span
at I, the glyph address, the decimal digits, the sprite origin. -/

namespace Sys2Proof.Machine

/-- zext_16(NNN): an absolute byte address, never scaled or sign-extended (R73). -/
def addressOf (nnn : BitVec 12) : Word := nnn.setWidth 16

/-- zext_16(V[x]): a register as a 16-bit addend (R103, R141). -/
def offsetOf (b : Byte) : Word := b.setWidth 16

/-- The first address of the span of DXYN, FX33, FX55 and FX65, as a natural number (R53, R146). -/
def State.spanBase (s : State) : Nat := s.i.toNat

/-- How many registers V0..VX names: X + 1 (R144, R145). -/
def rangeLength (x : Reg) : Nat := x.toNat + 1

/-- The values of V0..VX in order (R144). -/
def State.regRange (s : State) (x : Reg) : List Byte :=
  (List.range (rangeLength x)).map fun k => s.getV (BitVec.ofNat 4 k)

/-- The hundreds, tens and ones of a byte (R143). -/
def bcdDigits (b : Byte) : List Byte :=
  [BitVec.ofNat 8 (b.toNat / 100), BitVec.ofNat 8 (b.toNat / 10 % 10), BitVec.ofNat 8 (b.toNat % 10)]

/-- A register value that names a font digit or a key code: at most 15, the whole byte tested (R142, R186). -/
def inNibble (b : Byte) : Bool := decide (b.toNat ≤ 15)

/-- 0x0050 + 5 * d, the address of the glyph of digit d (R31, R142). -/
def glyphAddress (d : Byte) : Word := BitVec.ofNat 16 (Config.fontBase + Config.glyphBytes * d.toNat)

/-- A register value at most 15 as a key code (R180). -/
def keyCode (b : Byte) : Key := b.setWidth 4

/-- A key code as a register value, 0..15 (R182). -/
def byteOfKey (k : Key) : Byte := k.setWidth 8

/-- The sprite's column origin: VX mod 64 (R161). -/
def originX (b : Byte) : Nat := b.toNat % Config.fbWidth

/-- The sprite's row origin: VY mod 32 (R161). -/
def originY (b : Byte) : Nat := b.toNat % Config.fbHeight

end Sys2Proof.Machine
end

