-- ==== Sys2Proof/Machine/Alu.lean ====
section
/-! DEFINITION. Register load, arithmetic, logic, shift and random instructions (41_alu.md). Operands are latched
before any write (rule R120): each meaning computes from the state it is given. -/

namespace Sys2Proof.Machine

/-- 6XKK: VX <- KK (R122). -/
def execLdImm (x : Reg) (kk : Byte) (s : State) : Result := .next (s.setV x kk)

/-- 7XKK: VX <- (VX + KK) mod 256, no flag (R123). -/
def execAddImm (x : Reg) (kk : Byte) (s : State) : Result := .next (s.setV x (s.getV x + kk))

/-- 8XY0: VX <- VY (R124). -/
def execLdReg (x y : Reg) (s : State) : Result := .next (s.setV x (s.getV y))

/-- 8XY1: VX <- VX or VY, no flag (R125). -/
def execOrReg (x y : Reg) (s : State) : Result := .next (s.setV x (s.getV x ||| s.getV y))

/-- 8XY2: VX <- VX and VY, no flag (R126). -/
def execAndReg (x y : Reg) (s : State) : Result := .next (s.setV x (s.getV x &&& s.getV y))

/-- 8XY3: VX <- VX xor VY, no flag (R127). -/
def execXorReg (x y : Reg) (s : State) : Result := .next (s.setV x (s.getV x ^^^ s.getV y))

/-- 8XY4: VX <- (VX + VY) mod 256, VF <- carry (R128). -/
def execAddReg (x y : Reg) (s : State) : Result :=
  .next (s.setResultFlag x (s.getV x + s.getV y) (carryFlag (s.getV x) (s.getV y)))

/-- 8XY5: VX <- (VX - VY) mod 256, VF <- VX > VY (R129). -/
def execSubReg (x y : Reg) (s : State) : Result :=
  .next (s.setResultFlag x (s.getV x - s.getV y) (greaterFlag (s.getV x) (s.getV y)))

/-- 8XY6: VX <- VY div 2, VF <- VY & 1; the old VX is not used (R130). -/
def execShrReg (x y : Reg) (s : State) : Result :=
  .next (s.setResultFlag x (s.getV y >>> 1) (lowBitFlag (s.getV y)))

/-- 8XY7: VX <- (VY - VX) mod 256, VF <- VY > VX (R131). -/
def execSubnReg (x y : Reg) (s : State) : Result :=
  .next (s.setResultFlag x (s.getV y - s.getV x) (greaterFlag (s.getV y) (s.getV x)))

/-- 8XYE: VX <- (VY * 2) mod 256, VF <- VY & 0x80; the old VX is not used (R132). -/
def execShlReg (x y : Reg) (s : State) : Result :=
  .next (s.setResultFlag x (s.getV y <<< 1) (highBitFlag (s.getV y)))

/-- CXKK: VX <- a byte of the host's random source and KK (R133). The byte is a FREE VALUE (log 6). -/
def execRnd (x : Reg) (kk : Byte) (s : State) : Result := .next (s.drawn.setV x (s.nextByte &&& kk))

end Sys2Proof.Machine
end

