-- ==== Sys2Proof/Machine/ControlFlow.lean ====
section
/-! DEFINITION. Jumps, call, return and skips (40_control_flow.md). Each meaning starts after the fetch advance:
PC = PC0 + 2 (rule R26). -/

namespace Sys2Proof.Machine

/-- A skip: PC <- PC + 2 on top of the fetch advance when the condition holds (R108). -/
def skipIf (c : Bool) (s : State) : State := if c then s.advancePc else s

/-- 1NNN: PC <- NNN (R100). -/
def execJp (nnn : BitVec 12) (s : State) : Result := .next (s.setPc (addressOf nnn))

/-- 2NNN: push PC, PC <- NNN; StackOverflow when SP = 16 (R101, R203). -/
def execCall (nnn : BitVec 12) (s : State) : Result :=
  match s.pushReturn with
  | some t => .next (t.setPc (addressOf nnn))
  | none => raise .stackOverflow (.call nnn) s

/-- 00EE: pop PC; with an empty stack nothing (R102). -/
def execRet (s : State) : Result := .next s.popReturn

/-- BNNN: PC <- NNN + V0 (R103). -/
def execJpV0 (nnn : BitVec 12) (s : State) : Result := .next (s.setPc (addressOf nnn + offsetOf (s.getV 0x0#4)))

/-- 3XKK: skip if VX = KK (R104). -/
def execSeImm (x : Reg) (kk : Byte) (s : State) : Result := .next (skipIf (s.getV x == kk) s)

/-- 4XKK: skip if VX != KK (R105). -/
def execSneImm (x : Reg) (kk : Byte) (s : State) : Result := .next (skipIf (s.getV x != kk) s)

/-- 5XY0: skip if VX = VY (R106). -/
def execSeReg (x y : Reg) (s : State) : Result := .next (skipIf (s.getV x == s.getV y) s)

/-- 9XY0: skip if VX != VY (R107). -/
def execSneReg (x y : Reg) (s : State) : Result := .next (skipIf (s.getV x != s.getV y) s)

end Sys2Proof.Machine
end

