-- ==== Sys2Proof/Machine/Display.lean ====
section
/-! DEFINITION. Framebuffer clear and XOR sprite blit with collision (43_display.md). -/

namespace Sys2Proof.Machine

/-- Where bit b of a sprite row lands: the unwrapped index, pulled back by one screen width when it is at or past the
row's right boundary (R162, conflict C4). -/
def blitTarget (x0 row b : Nat) : Nat :=
  let k := (x0 + b) + row * Config.fbWidth
  if (row + 1) * Config.fbWidth ≤ k then k - Config.fbWidth else k

/-- Bit b of a sprite byte, b = 0 the most significant and leftmost (R162). -/
def spriteBit (byte : Byte) (b : Nat) : Bool := byte.getLsbD (7 - b)

/-- XOR one sprite bit, accumulating the collision: a pixel on and a bit on (R162, R163). -/
def blitBit (byte : Byte) (x0 row : Nat) (acc : Frame × Bool) (b : Nat) : Frame × Bool :=
  if spriteBit byte b then
    (flipPixel acc.1 (blitTarget x0 row b), acc.2 || pixel acc.1 (blitTarget x0 row b))
  else acc

/-- XOR the eight bits of one sprite byte into one row (R162). -/
def blitRow (byte : Byte) (x0 row : Nat) (acc : Frame × Bool) : Frame × Bool :=
  (List.range 8).foldl (blitBit byte x0 row) acc

/-- XOR the sprite's bytes into consecutive rows (R162). -/
def blitRows : List Byte → Nat → Nat → Frame × Bool → Frame × Bool
  | [], _, _, acc => acc
  | byte :: rest, x0, row, acc => blitRows rest x0 (row + 1) (blitRow byte x0 row acc)

/-- Blit(rows, x0, y0): the new framebuffer and whether some pixel went from on to off (R162, R163). -/
def blit (rows : List Byte) (x0 y0 : Nat) (f : Frame) : Frame × Bool := blitRows rows x0 y0 (f, false)

/-- 00E0: every pixel off (R160). -/
def execCls (s : State) : Result := .next (s.setFb blankFrame)

/-- DXYN: XOR the N-byte sprite at I at (VX mod 64, VY mod 32), VF <- collision. The span is checked first, then the
vertical extent (R161, R164, R212). -/
def execDrw (x y : Reg) (n : BitVec 4) (s : State) : Result :=
  match s.memRead s.spanBase n.toNat with
  | none => raise .memoryProtectionViolation (.drw x y n) s
  | some rows =>
    if Config.fbHeight < originY (s.getV y) + n.toNat then raise .drawVerticalOverrun (.drw x y n) s
    else
      .next ((s.setFb (blit rows (originX (s.getV x)) (originY (s.getV y)) s.fb).1).setV vf
        (flagOf (blit rows (originX (s.getV x)) (originY (s.getV y)) s.fb).2))

end Sys2Proof.Machine
end

