-- ==== Sys2Proof/Machine/IndexMemory.lean ====
section
/-! DEFINITION. Index register, font lookup, BCD, register store and load (42_index_memory.md). -/

namespace Sys2Proof.Machine

/-- ANNN: I <- NNN, not checked here (R140). -/
def execLdI (nnn : BitVec 12) (s : State) : Result := .next (s.setI (addressOf nnn))

/-- FX1E: I <- (I + VX) mod 65536, no flag (R141). -/
def execAddI (x : Reg) (s : State) : Result := .next (s.setI (s.i + offsetOf (s.getV x)))

/-- FX29: I <- 0x0050 + 5 * VX; InvalidDigit when VX > 15 (R142, R202). -/
def execLdF (x : Reg) (s : State) : Result :=
  if inNibble (s.getV x) then .next (s.setI (glyphAddress (s.getV x))) else raise .invalidDigit (.ldF x) s

/-- FX33: RAM[I..I+2] <- the decimal digits of VX; MemoryProtectionViolation when the span fails (R143, R204). -/
def execLdB (x : Reg) (s : State) : Result :=
  match s.memWrite s.spanBase (bcdDigits (s.getV x)) with
  | some t => .next t
  | none => raise .memoryProtectionViolation (.ldB x) s

/-- FX55: RAM[I + k] <- V[k] for k = 0..X; I unchanged (R144, R204). -/
def execStoreRegs (x : Reg) (s : State) : Result :=
  match s.memWrite s.spanBase (s.regRange x) with
  | some t => .next t
  | none => raise .memoryProtectionViolation (.storeRegs x) s

/-- FX65: V[k] <- RAM[I + k] for k = 0..X; I unchanged (R145, R204). -/
def execLoadRegs (x : Reg) (s : State) : Result :=
  match s.memRead s.spanBase (rangeLength x) with
  | some bytes => .next (State.setVsFrom 0 bytes s)
  | none => raise .memoryProtectionViolation (.loadRegs x) s

end Sys2Proof.Machine
end

