-- ==== Sys2Proof/Machine/KeypadTimers.lean ====
section
/-! DEFINITION. Keypad and timer instructions (44_keypad_timers.md). -/

namespace Sys2Proof.Machine

/-- EX9E: skip if key VX is down; InvalidKey when VX > 15 (R180, R186). -/
def execSkp (x : Reg) (s : State) : Result :=
  if inNibble (s.getV x) then .next (skipIf (s.isKeyDown (keyCode (s.getV x))) s) else raise .invalidKey (.skp x) s

/-- EXA1: skip if key VX is not down; InvalidKey when VX > 15 (R181, R186). -/
def execSknp (x : Reg) (s : State) : Result :=
  if inNibble (s.getV x) then .next (skipIf (!s.isKeyDown (keyCode (s.getV x))) s) else raise .invalidKey (.sknp x) s

/-- A key that is down, stored in V[x] (R182). -/
def storeKey (x : Reg) (k : Key) (s : State) : State := s.keyPicked.setV x (byteOfKey k)

/-- FX0A: with a key down its code to VX at once, else RUN <- WaitKey(X) (R182). -/
def execLdVxK (x : Reg) (s : State) : Result :=
  match s.firstKeyDown with
  | some k => .next (storeKey x k s)
  | none => .next (s.setRun (.waitKey x))

/-- FX07: VX <- DT (R183). -/
def execLdVxDt (x : Reg) (s : State) : Result := .next (s.setV x s.dt)

/-- FX15: DT <- VX (R184). -/
def execLdDtVx (x : Reg) (s : State) : Result := .next (s.setDt (s.getV x))

/-- FX18: ST <- VX (R185). -/
def execLdStVx (x : Reg) (s : State) : Result := .next (s.setSt (s.getV x))

end Sys2Proof.Machine
end

