-- ==== Sys2Proof/Machine/Agents.lean ====
section
/-! DEFINITION. One step of each agent and each move of the host: the CPU step (rules R230, R231), the timer ticks
(rule R221), the key state (rule R11), the load port (rule R245), reset (rule R240), shutdown (U20). -/

namespace Sys2Proof.Machine

/-- The CPU's step with RUN = Running: fetch check, fetch, advance, decode, execute (R230). -/
def runStep (s : State) : Result :=
  if fetchable s.pc then
    match decode s.fetchWord with
    | .instr i => exec i s.advancePc
    | .unknownInstruction w => .next (s.advancePc.halt ⟨.unknownInstruction, some w, some s.pc⟩)
  else .next (s.halt ⟨.fetchOutOfBounds, none, some s.pc⟩)

/-- The CPU's step with RUN = WaitKey(x): with a key down its code to V[x] and RUN <- Running; with none down the CPU
has no step, so a tick of the instruction clock changes nothing (R182, R231, log 19). -/
def waitStep (x : Reg) (s : State) : Result :=
  match s.firstKeyDown with
  | some k => .next ((storeKey x k s).setRun .running)
  | none => .next s

/-- One instr_tick (R230, R231). A halted CORE does not step (R211). -/
def cpuStep (s : State) : Result :=
  match s.run with
  | .running => runStep s.startRun
  | .waitKey x => waitStep x s
  | .halted r => .fault (.halted r)

/-- One dt_tick: DT <- DT - 1 when DT != 0 and RUN is not Halted; otherwise the driver is stopped and nothing happens
(R221, R222). -/
def dtTickStep (s : State) : Result :=
  if s.dtRunning && !s.isHalted then .next (s.setDt (s.dt - 1#8)) else .next s

/-- One st_tick: the same for ST (R221, R222). -/
def stTickStep (s : State) : Result :=
  if s.stRunning && !s.isHalted then .next (s.setSt (s.st - 1#8)) else .next s

/-- The host changes the key state (R11, decision D29). -/
def keysStep (k : Word) (s : State) : Result := .next { s with keys := k }

/-- The host presents the image: RAM[0x200 + k] <- IMAGE[k] when it fits, else ProgramTooLarge, with neither opcode
nor pc (R245, R206, R210). Once, and only before the first CPU step (R8, R245, U21, log 20). -/
def loadStep (image : List Byte) (s : State) : Result :=
  if s.loadOpen then
    if imageFits image then .next (s.startRun.store Config.progBase image)
    else .next (s.startRun.halt ⟨.programTooLarge, none, none⟩)
  else .refused .loadAfterStart

/-- The host applies reset: every piece of the CORE's state to its reset value, the parameters being those the machine
was built with; what is the host's (keys, its moves to come, its oracles' counters) stays (R240, R16, log 22). -/
def resetStep (s : State) : Result :=
  .next { State.resetWith s.params with
    keys := s.keys, schedule := s.schedule, rounds := s.rounds, draws := s.draws, keyPicks := s.keyPicks }

/-- One move of the total order (R7). -/
def moveStep (m : Move) (s : State) : Result :=
  match m with
  | .instrTick => cpuStep s
  | .dtTick => dtTickStep s
  | .stTick => stTickStep s
  | .keys k => keysStep k s
  | .load image => loadStep image s
  | .reset => resetStep s
  | .shutdown => .refused .shutDown

/-- An agent's step as a move (R6, R9). -/
def tickOf : Config.Agent → Move
  | .cpu => .instrTick
  | .dtDriver => .dtTick
  | .stDriver => .stTick

/-- A turn of the free order as a move. -/
def moveOf : Config.Turn → Move
  | .agent a => tickOf a
  | .keys k => .keys k

/-- The moves of a round: its turns, then the agents that have no turn among them. So each agent moves in every round,
and any order in which each agent moves again and again is made of such rounds (R7, decision D16, log 5). -/
def roundMoves (turns : List Config.Turn) : List Move :=
  turns.map moveOf ++
    (([.cpu, .dtDriver, .stDriver] : List Config.Agent).filter fun a => !turns.contains (.agent a)).map tickOf

/-- The next round of the free order, listed (R7, log 5). -/
def State.drawRound (s : State) : State :=
  { s with schedule := roundMoves (Config.round s.rounds), rounds := s.rounds + 1 }

/-- The first listed move and what is left; a round is never empty (roundMoves_ne_nil), so the first arm is not taken. -/
def State.popMove (s : State) : Move × State :=
  match s.schedule with
  | [] => (.instrTick, s)
  | m :: rest => (m, { s with schedule := rest })

/-- The next move of the total order: the first listed one; with none listed, the first of the next round of the free
order (R7, log 5). -/
def nextMove (s : State) : Move × State := if s.schedule.isEmpty then s.drawRound.popMove else s.popMove

/-- The place an instruction is put so that the very next step runs it: at PC when the fetch check passes there, else
at 0x200 with PC set to it; RUN Running, and the CPU moves next (R54, R230, log 20). -/
def placeWord (s : State) (w : Word) : State :=
  let p := if fetchable s.pc then s.pc else 0x0200#16
  { s with
    pc := p
    run := .running
    mem := s.mem.writeAll s.params.font p.toNat [firstByte w, secondByte w]
    schedule := .instrTick :: s.schedule }

end Sys2Proof.Machine
end

