-- ==== Sys2Proof/Machine/Step.lean ====
section
/-! DEFINITION. One step of the machine: the next move of the total order (rule R7). -/

namespace Sys2Proof.Machine

/-- One step: a next state, a fault (the CORE has halted), or a refusal (the host's forbidden load, shutdown). -/
def step (s : State) : Host.Outcome State Fault Refusal := moveStep (nextMove s).1 (nextMove s).2

/-- s with the instruction w (bit 0 the least significant bit of its one word) where step fetches next. -/
def State.withFetchWord (s : State) (_nbits w : Nat) : State := placeWord s (BitVec.ofNat 16 w)

end Sys2Proof.Machine
end

