-- ==== Sys2Proof/Safety.lean ====
section
/-! DEFINITION. The terms claims are stated in: what each instruction may write (rules R16, R21, R23 to R34), which
fatal condition it may raise (R200), the invariants, the done state (R232), a run of instructions, and infinite runs with their
fairness (R7, R224). -/

namespace Sys2Proof.Safety

open Sys2Proof.Machine

/-- The general registers an instruction may write: VX, V0..VX, and VF as flag (R21, R23). -/
def writesV : Instr → Reg → Bool
  | .ldImm x _, r | .addImm x _, r | .ldReg x _, r | .orReg x _, r | .andReg x _, r | .xorReg x _, r
  | .rnd x _, r | .ldVxDt x, r | .ldVxK x, r => r == x
  | .addReg x _, r | .subReg x _, r | .shrReg x _, r | .subnReg x _, r | .shlReg x _, r => r == x || r == vf
  | .drw _ _ _, r => r == vf
  | .loadRegs x, r => decide (r.toNat ≤ x.toNat)
  | .cls, _ | .ret, _ | .jp _, _ | .call _, _ | .seImm _ _, _ | .sneImm _ _, _ | .seReg _ _, _ | .sneReg _ _, _
  | .ldI _, _ | .jpV0 _, _ | .skp _, _ | .sknp _, _ | .ldDtVx _, _ | .ldStVx _, _ | .addI _, _ | .ldF _, _
  | .ldB _, _ | .storeRegs _, _ => false

/-- The instructions that write I (R24). -/
def writesI : Instr → Bool
  | .ldI _ | .addI _ | .ldF _ => true
  | .cls | .ret | .jp _ | .call _ | .seImm _ _ | .sneImm _ _ | .seReg _ _ | .ldImm _ _ | .addImm _ _ | .ldReg _ _
  | .orReg _ _ | .andReg _ _ | .xorReg _ _ | .addReg _ _ | .subReg _ _ | .shrReg _ _ | .subnReg _ _ | .shlReg _ _
  | .sneReg _ _ | .jpV0 _ | .rnd _ _ | .drw _ _ _ | .skp _ | .sknp _ | .ldVxDt _ | .ldVxK _ | .ldDtVx _ | .ldStVx _
  | .ldB _ | .storeRegs _ | .loadRegs _ => false

/-- The instructions that change PC beyond the fetch advance (R27). -/
def writesPc : Instr → Bool
  | .ret | .jp _ | .call _ | .jpV0 _ | .seImm _ _ | .sneImm _ _ | .seReg _ _ | .sneReg _ _ | .skp _ | .sknp _ => true
  | .cls | .ldImm _ _ | .addImm _ _ | .ldReg _ _ | .orReg _ _ | .andReg _ _ | .xorReg _ _ | .addReg _ _ | .subReg _ _
  | .shrReg _ _ | .subnReg _ _ | .shlReg _ _ | .ldI _ | .rnd _ _ | .drw _ _ _ | .ldVxDt _ | .ldVxK _ | .ldDtVx _
  | .ldStVx _ | .addI _ | .ldF _ | .ldB _ | .storeRegs _ | .loadRegs _ => false

/-- The instructions that touch the call stack (R28). -/
def usesStack : Instr → Bool
  | .ret | .call _ => true
  | .cls | .jp _ | .seImm _ _ | .sneImm _ _ | .seReg _ _ | .ldImm _ _ | .addImm _ _ | .ldReg _ _ | .orReg _ _
  | .andReg _ _ | .xorReg _ _ | .addReg _ _ | .subReg _ _ | .shrReg _ _ | .subnReg _ _ | .shlReg _ _ | .sneReg _ _
  | .ldI _ | .jpV0 _ | .rnd _ _ | .drw _ _ _ | .skp _ | .sknp _ | .ldVxDt _ | .ldVxK _ | .ldDtVx _ | .ldStVx _
  | .addI _ | .ldF _ | .ldB _ | .storeRegs _ | .loadRegs _ => false

/-- The instructions that write the framebuffer (R34). -/
def writesFb : Instr → Bool
  | .cls | .drw _ _ _ => true
  | .ret | .jp _ | .call _ | .seImm _ _ | .sneImm _ _ | .seReg _ _ | .ldImm _ _ | .addImm _ _ | .ldReg _ _ | .orReg _ _
  | .andReg _ _ | .xorReg _ _ | .addReg _ _ | .subReg _ _ | .shrReg _ _ | .subnReg _ _ | .shlReg _ _ | .sneReg _ _
  | .ldI _ | .jpV0 _ | .rnd _ _ | .skp _ | .sknp _ | .ldVxDt _ | .ldVxK _ | .ldDtVx _ | .ldStVx _ | .addI _ | .ldF _
  | .ldB _ | .storeRegs _ | .loadRegs _ => false

/-- The instructions that write RAM (R51, R60, R146). -/
def writesRam : Instr → Bool
  | .ldB _ | .storeRegs _ => true
  | .cls | .ret | .jp _ | .call _ | .seImm _ _ | .sneImm _ _ | .seReg _ _ | .ldImm _ _ | .addImm _ _ | .ldReg _ _
  | .orReg _ _ | .andReg _ _ | .xorReg _ _ | .addReg _ _ | .subReg _ _ | .shrReg _ _ | .subnReg _ _ | .shlReg _ _
  | .sneReg _ _ | .ldI _ | .jpV0 _ | .rnd _ _ | .drw _ _ _ | .skp _ | .sknp _ | .ldVxDt _ | .ldVxK _ | .ldDtVx _
  | .ldStVx _ | .addI _ | .ldF _ | .loadRegs _ => false

/-- The fatal conditions an executing instruction may raise (R200). -/
def mayRaise : Instr → List Cause
  | .call _ => [.stackOverflow]
  | .ldF _ => [.invalidDigit]
  | .ldB _ | .storeRegs _ | .loadRegs _ => [.memoryProtectionViolation]
  | .drw _ _ _ => [.memoryProtectionViolation, .drawVerticalOverrun]
  | .skp _ | .sknp _ => [.invalidKey]
  | .cls | .ret | .jp _ | .seImm _ _ | .sneImm _ _ | .seReg _ _ | .ldImm _ _ | .addImm _ _ | .ldReg _ _ | .orReg _ _
  | .andReg _ _ | .xorReg _ _ | .addReg _ _ | .subReg _ _ | .shrReg _ _ | .subnReg _ _ | .shlReg _ _ | .sneReg _ _
  | .ldI _ | .jpV0 _ | .rnd _ _ | .ldVxDt _ | .ldVxK _ | .ldDtVx _ | .ldStVx _ | .addI _ => []

/-- A row of the opcode map: the words w with (w & mask) = pattern are exactly the words the decoder reads as f w
(R75); the rule of an instruction gives its pattern, mask and operand fields. -/
def EncodedAs (pattern mask : Word) (f : Word → Instr) : Prop := ∀ w : Word, w &&& mask = pattern ↔ decode w = .instr (f w)

/-- An address an instruction may use for data (R53), written out. -/
def Addressable (a : Nat) : Prop := (0x200 ≤ a ∧ a < 0xEA0) ∨ (0x050 ≤ a ∧ a < 0x0A0)

/-- Invariant: RAM is in its canonical form and lists only addressable cells, so every reserved byte reads as at
reset (R50, R53). -/
def RamIntact (s : State) : Prop := s.ramWf = true ∧ ∀ c ∈ s.mem, Addressable c.1

/-- Invariant: PC is at most 0x10FE and every stack slot at most 0xEA0, so PC arithmetic never wraps (R27). -/
def PcBounded (s : State) : Prop := s.pc.toNat ≤ 0x10FE ∧ ∀ k, (h : k < 16) → (s.stack[k]'h).toNat ≤ 0xEA0

/-- The done state of R232: Running, at a fetchable 1NNN that jumps to itself. -/
def Done (s : State) : Prop :=
  s.run = .running ∧ fetchable s.pc = true ∧ ∃ nnn, decode s.fetchWord = .instr (.jp nnn) ∧ addressOf nnn = s.pc

/-- The pixel at column c of row r under a sprite of n bytes at address a drawn at origin (x0, y0), with horizontal
wrap onto the same row (R162): the closed form the blit loops are held against. -/
def spriteOn (ram : Nat → Byte) (a x0 y0 n c r : Nat) : Bool :=
  decide (y0 ≤ r ∧ r < y0 + n ∧ (c + 64 - x0) % 64 < 8) && (ram (a + (r - y0))).getLsbD (7 - (c + 64 - x0) % 64)

/-- The agent has a step to take: the CPU when it may fetch, or waits for a key and one is down; a timer driver when its
timer is not 0; none when halted (R221, R230, R231, R211). -/
def enabled : Config.Agent → State → Bool
  | .cpu, s =>
    match s.run with
    | .running => true
    | .waitKey _ => s.keys != 0#16
    | .halted _ => false
  | .dtDriver, s => s.dtRunning && !s.isHalted
  | .stDriver, s => s.stRunning && !s.isHalted

/-- An infinite run: every step answers a next state. -/
def IsRun (run : Nat → State) : Prop := ∀ n, step (run n) = .next (run (n + 1))

/-- The fairness assumption (R7, R224, decision D16): from any point on, each agent eventually steps, or is at some point
not enabled. -/
def WeaklyFair (run : Nat → State) : Prop :=
  ∀ a n, ∃ m, n ≤ m ∧ (enabled a (run m) = false ∨ (nextMove (run m)).1 = tickOf a)

/-- Execute instructions one after another, stopping where exec gives no next state. -/
def execAll : List Instr → State → Result
  | [], s => .next s
  | i :: is, s =>
    match exec i s with
    | .next t => execAll is t
    | .fault f => .fault f
    | .refused r => .refused r

end Sys2Proof.Safety
end

