-- ==== Sys2Proof/Certificates/Slice0/Obligations.lean ====
section
/-! DEFINITION. The statements for the provers: what the rules of spec/ say the machine does. "log n" is
notes/assumptions/n.md: a clause that rests on one is the model's choice or an inference, not the source's word. -/

open Sys2Proof Sys2Proof.Machine Sys2Proof.Safety

/-! ## Encoding -/

/-- Every instruction decodes from its own word, at every operand value (R71, R72, R75). -/
def Obligations.DecodeEncodeRoundTrip : Prop := ∀ i : Instr, decode (encode i) = .instr i

/-- A decoded word is the word of the instruction read from it: no bit of a legal word is dropped (R71, R72). -/
def Obligations.EncodeDecodeWord : Prop := ∀ (w : Word) (i : Instr), decode w = .instr i → encode i = w

/-- For each of the 34 rows: a word decodes to an instruction of the row exactly when (w & mask) = match (R75; the
family discriminators are decision D4, the low nibbles of 8XY_ R76's inference: log 26). -/
def Obligations.DecodeMatchesExactlyItsRow : Prop :=
  ∀ (w : Word) (k : Nat) (row : Word × Word), opcodeMap[k]? = some row →
    (w &&& row.2 = row.1 ↔ ∃ i, decode w = .instr i ∧ rowIndex i = k)

/-- A word that matches no row is rejected as an unknown instruction with the raw word, and only such a word (R77; which words match rests on decision D4 and R76's inference, log 26). -/
def Obligations.IllegalWordsAreUnknown : Prop :=
  ∀ (w v : Word), decode w = .unknownInstruction v ↔ v = w ∧ ∀ row ∈ opcodeMap, w &&& row.2 ≠ row.1

/-- Words written out from the spec's encodings, one per family, and illegal words of 95_test_vectors.md. -/
def Obligations.SpecWordsDecode : Prop :=
  decode 0x00E0 = .instr .cls ∧ decode 0x1ABC = .instr (.jp 0xABC) ∧ decode 0x8014 = .instr (.addReg 0 1) ∧
  decode 0xA123 = .instr (.ldI 0x123) ∧ decode 0xD125 = .instr (.drw 1 2 5) ∧ decode 0xF30A = .instr (.ldVxK 3) ∧
  decode 0x5121 = .unknownInstruction 0x5121 ∧ decode 0x0123 = .unknownInstruction 0x0123

/-! ## The step -/

/-- With instr_tick next, when the two bytes at PC, high byte first, decode to i and PC passes the fetch check, the step
is exec of i with PC advanced by 2 first (R230, R26, R58), the image load being closed from now on (log 20). With no
move listed, the step is the step with the next round of the free order listed (R7; its form is log 5). -/
def Obligations.StepRunsDecodedInstruction : Prop :=
  (∀ (s : State) (i : Instr) (rest : List Move), s.run = .running → 0x200 ≤ s.pc.toNat → s.pc.toNat + 1 < 0xEA0 →
    decode (BitVec.ofNat 16 ((s.read s.pc.toNat).toNat * 256 + (s.read (s.pc.toNat + 1)).toNat)) = .instr i →
    s.schedule = .instrTick :: rest →
    step s = exec i { s with schedule := rest, loadOpen := false, pc := s.pc + 2#16 }) ∧
  (∀ s : State, s.schedule = [] →
    step s = step { s with schedule := roundMoves (Config.round s.rounds), rounds := s.rounds + 1 })

/-- With instr_tick next: a fetch outside 0x200..0xE9E halts with FetchOutOfBounds, PC not advanced and no opcode; an
undefined word halts with UnknownInstruction, PC advanced, carrying the word (R54, R205, R207; the bound and the name
are decision D5, the pc in the record decision D17: log 11, 23). -/
def Obligations.FetchAndDecodeFailuresHalt : Prop :=
  ∀ (s : State) (rest : List Move), s.run = .running → s.schedule = .instrTick :: rest →
    (¬(0x200 ≤ s.pc.toNat ∧ s.pc.toNat + 1 < 0xEA0) →
      step s = .next { s with schedule := rest, loadOpen := false,
                              run := .halted ⟨.fetchOutOfBounds, none, some s.pc⟩ }) ∧
    (0x200 ≤ s.pc.toNat → s.pc.toNat + 1 < 0xEA0 → ∀ w,
      w = BitVec.ofNat 16 ((s.read s.pc.toNat).toNat * 256 + (s.read (s.pc.toNat + 1)).toNat) →
      (∀ row ∈ opcodeMap, w &&& row.2 ≠ row.1) →
      step s = .next { s with schedule := rest, loadOpen := false, pc := s.pc + 2#16,
                              run := .halted ⟨.unknownInstruction, some w, some s.pc⟩ })

/-- A halted CORE is frozen: its CPU step is the fault naming its record, and a timer tick changes nothing (R211,
R213; decision D24, log 10). -/
def Obligations.HaltedCoreIsFrozen : Prop :=
  ∀ (s : State) (r : FaultRecord), s.run = .halted r →
    (∀ rest, s.schedule = .instrTick :: rest → step s = .fault (.halted r)) ∧
    (∀ rest, s.schedule = .dtTick :: rest ∨ s.schedule = .stTick :: rest → step s = .next { s with schedule := rest })

/-- In WaitKey(x) an instr_tick fetches nothing: with no key down nothing changes; with keys down the code of one of
them is written to V[x] and RUN becomes Running (R182, R231; decision D14 and the model's poll: log 7, 9, 19). -/
def Obligations.WaitKeyStepTakesHeldKey : Prop :=
  ∀ (s : State) (x : Reg) (rest : List Move), s.run = .waitKey x → s.schedule = .instrTick :: rest →
    (s.keys = 0#16 → step s = .next { s with schedule := rest }) ∧
    (s.keys ≠ 0#16 → ∃ (t : State) (k : Key), step s = .next t ∧ s.keys.getLsbD k.toNat = true ∧
      (t.getV x).toNat = k.toNat ∧ (∀ r, r ≠ x → t.getV r = s.getV r) ∧
      t = { s with v := t.v, run := .running, keyPicks := t.keyPicks, schedule := rest })

/-- A timer tick is enabled exactly when its timer is not 0 and RUN is not Halted; it subtracts 1 and does nothing
else; a tick that is not enabled changes nothing, the model's form of a step that does not happen (R221; log 18). -/
def Obligations.TimerTickDecrements : Prop :=
  ∀ (s : State) (rest : List Move),
    (s.schedule = .dtTick :: rest → ∃ t, step s = .next t ∧ t = { s with schedule := rest, dt := t.dt } ∧
      t.dt.toNat = if s.dt.toNat ≠ 0 ∧ s.isHalted = false then s.dt.toNat - 1 else s.dt.toNat) ∧
    (s.schedule = .stTick :: rest → ∃ t, step s = .next t ∧ t = { s with schedule := rest, st := t.st } ∧
      t.st.toNat = if s.st.toNat ≠ 0 ∧ s.isHalted = false then s.st.toNat - 1 else s.st.toNat)

/-- n DT ticks take DT to DT - n, stopping at 0 and never below (R222, R223; decision D15, log 18). An enabled agent
eventually steps: every infinite run is weakly fair, so in a run that does not halt a timer that nothing raises reaches
0 (R7, R224; decision D16, log 5). -/
def Obligations.TimerCountsDownToZero : Prop :=
  (∀ (n : Nat) (s : State), s.schedule = List.replicate n .dtTick → (∀ r, s.run ≠ .halted r) →
    ∃ t : State, Host.Core.run Sys2Proof.core n s = .next t ∧ t.dt.toNat = s.dt.toNat - n ∧
      t = { s with schedule := [], dt := t.dt }) ∧
  (∀ run : Nat → State, IsRun run → WeaklyFair run) ∧
  (∀ run : Nat → State, IsRun run → (∀ n, (run n).isHalted = false) →
    ((∀ n, (run (n + 1)).dt.toNat ≤ (run n).dt.toNat) → ∃ n, (run n).dt.toNat = 0) ∧
    ((∀ n, (run (n + 1)).st.toNat ≤ (run n).st.toNat) → ∃ n, (run n).st.toNat = 0))

/-- The host changes the key state and nothing else; it may not load once the load is closed; shutdown has no next
state (R8, R11, U20, U21; log 4, 20, 21). -/
def Obligations.HostMovesDoWhatTheyMay : Prop :=
  ∀ (s : State) (rest : List Move),
    (∀ k, s.schedule = .keys k :: rest → step s = .next { s with schedule := rest, keys := k }) ∧
    (∀ image, s.schedule = .load image :: rest → s.loadOpen = false → step s = .refused .loadAfterStart) ∧
    (s.schedule = .shutdown :: rest → step s = .refused .shutDown)

/-- The load port: an image of at most 3232 bytes is copied to 0x200 upward and no other byte changes; a longer one
halts the CORE with ProgramTooLarge, no opcode and no pc (R245, R206, R210; the bound is R245's derivation, log 20). -/
def Obligations.ImageLoadCopiesOrRejects : Prop :=
  ∀ (s : State) (image : List Byte) (rest : List Move), s.schedule = .load image :: rest → s.loadOpen = true →
    (image.length ≤ 3232 → s.ramWf = true → ∃ t, step s = .next t ∧
      (∀ k, (h : k < image.length) → t.read (0x200 + k) = image[k]) ∧
      (∀ a, a < 0x200 ∨ 0x200 + image.length ≤ a → t.read a = s.read a) ∧
      t = { s with schedule := rest, loadOpen := false, mem := t.mem }) ∧
    (3232 < image.length →
      step s = .next { s with schedule := rest, loadOpen := false, run := .halted ⟨.programTooLarge, none, none⟩ })

/-- Reset applied in any state, halted or waiting too, puts every piece of the CORE's state at its reset value, for the
parameters the machine was built with; the host's keys and moves stay (R240, R5; decisions D6, D7, D26: log 1, 2, 22). -/
def Obligations.ResetMoveRestoresReset : Prop :=
  ∀ (s : State) (rest : List Move), s.schedule = .reset :: rest →
    step s = .next { State.resetWith s.params with
      keys := s.keys, schedule := rest, rounds := s.rounds, draws := s.draws, keyPicks := s.keyPicks }

/-- The state after reset, for every FONT and INSTR_HZ (R5): PC = 0x0200 (R25), FONT at 0x050..0x09F (R31); the zeros,
Running and the RAM fill are decisions D6 and D7 (R39; log 1, 2). With the default parameters INSTR_HZ is 500 and the
80 bytes at 0x050 are those of R31, written out (general knowledge, decision D8, log 3). -/
def Obligations.ResetStateValues : Prop :=
  (∀ p : Config.Params, ∃ s, s = State.resetWith p ∧ s.params = p ∧
    s.pc.toNat = 0x200 ∧ (∀ r, s.getV r = 0) ∧ s.i = 0 ∧ s.sp.val = 0 ∧ (∀ k, (h : k < 16) → s.stack[k] = 0) ∧
    s.dt = 0 ∧ s.st = 0 ∧ s.run = .running ∧ s.fatal = none ∧ s.soundOn = false ∧ (∀ x y, s.render x y = false) ∧
    (∀ k, (h : k < 80) → s.read (0x050 + k) = p.font[k]) ∧ (∀ a, a < 0x050 ∨ 0x0A0 ≤ a → s.read a = 0)) ∧
  State.reset = State.resetWith Config.defaults ∧ State.reset.params.instrHz = 500 ∧
  (List.range 80).map (fun k => State.reset.read (0x050 + k)) =
    [0xF0#8, 0x90#8, 0x90#8, 0x90#8, 0xF0#8] ++ [0x20#8, 0x60#8, 0x20#8, 0x20#8, 0x70#8] ++
    [0xF0#8, 0x10#8, 0xF0#8, 0x80#8, 0xF0#8] ++ [0xF0#8, 0x10#8, 0xF0#8, 0x10#8, 0xF0#8] ++
    [0x90#8, 0x90#8, 0xF0#8, 0x10#8, 0x10#8] ++ [0xF0#8, 0x80#8, 0xF0#8, 0x10#8, 0xF0#8] ++
    [0xF0#8, 0x80#8, 0xF0#8, 0x90#8, 0xF0#8] ++ [0xF0#8, 0x10#8, 0x20#8, 0x40#8, 0x40#8] ++
    [0xF0#8, 0x90#8, 0xF0#8, 0x90#8, 0xF0#8] ++ [0xF0#8, 0x90#8, 0xF0#8, 0x10#8, 0xF0#8] ++
    [0xF0#8, 0x90#8, 0xF0#8, 0x90#8, 0x90#8] ++ [0xE0#8, 0x90#8, 0xE0#8, 0x90#8, 0xE0#8] ++
    [0xF0#8, 0x80#8, 0x80#8, 0x80#8, 0xF0#8] ++ [0xE0#8, 0x90#8, 0x90#8, 0x90#8, 0xE0#8] ++
    [0xF0#8, 0x80#8, 0xF0#8, 0x80#8, 0xF0#8] ++ [0xF0#8, 0x80#8, 0xF0#8, 0x80#8, 0x80#8]

/-! ## Control flow -/

/-- 1NNN, encoded 0x1000 under mask 0xF000 with NNN = w[11:0]: PC <- NNN; no flag, no exception, nothing pushed
(R100). The whole frame of this and the next instructions is in the frame statements below. -/
def Obligations.JumpSetsPc : Prop :=
  EncodedAs 0x1000#16 0xF000#16 (fun w => .jp (w.extractLsb' 0 12)) ∧
  ∀ (nnn : BitVec 12) (s : State), ∃ t, exec (.jp nnn) s = .next t ∧ t.pc.toNat = nnn.toNat ∧
    t.getV vf = s.getV vf ∧ t.run = s.run ∧ t.sp = s.sp ∧ t.stack = s.stack

/-- BNNN: PC <- NNN + V0, at most 0x10FE, not reduced modulo 4096 (R103; its no-truncation is the spec's inference,
log 16). -/
def Obligations.JumpV0AddsV0 : Prop :=
  ∀ (nnn : BitVec 12) (s : State), ∃ t, exec (.jpV0 nnn) s = .next t ∧
    t.pc.toNat = nnn.toNat + (s.getV 0).toNat ∧ t = { s with pc := t.pc }

/-- 2NNN: with SP < 16, STACK[SP] <- PC, SP <- SP + 1, PC <- NNN, and no exception (R101); with SP = 16, StackOverflow
carrying the instruction's word, with SP, STACK and PC as before (R203). -/
def Obligations.CallPushesReturn : Prop :=
  ∀ (nnn : BitVec 12) (s : State),
    ((h : s.sp.val < 16) → ∃ t, exec (.call nnn) s = .next t ∧ t.pc.toNat = nnn.toNat ∧ t.sp.val = s.sp.val + 1 ∧
      t.stack[s.sp.val] = s.pc ∧ t.getV vf = s.getV vf ∧ t.run = s.run) ∧
    (s.sp.val = 16 → ∃ t r, exec (.call nnn) s = .next t ∧ t.run = .halted r ∧ r.cause = .stackOverflow ∧
      r.opcode = some (encode (.call nnn)) ∧ t.sp.val = 16 ∧ t.stack = s.stack ∧ t.pc = s.pc)

/-- The word 0x00EE: with SP > 0, SP <- SP - 1 and PC <- STACK[SP], the slot keeping its content; with SP = 0 nothing
at all; no flag and no exception (R102). -/
def Obligations.ReturnPopsOrDoesNothing : Prop :=
  decode 0x00EE#16 = .instr .ret ∧
  ∀ s : State,
    ((h : 0 < s.sp.val) → ∃ t, exec .ret s = .next t ∧ t.sp.val + 1 = s.sp.val ∧
      t.pc = s.stack[s.sp.val - 1]'(by have := s.sp.isLt; omega) ∧
      t.stack[s.sp.val - 1]'(by have := s.sp.isLt; omega) = s.stack[s.sp.val - 1]'(by have := s.sp.isLt; omega) ∧
      t.getV vf = s.getV vf ∧ t.run = s.run) ∧
    (s.sp.val = 0 → exec .ret s = .next s)

/-- Calls nested as deep as the stack allows, then as many returns, come back to the same state but for the dead
stack slots: LIFO, up to 16 deep (R101, R102, S7; derived). -/
def Obligations.CallsThenReturnsRestore : Prop :=
  ∀ (targets : List (BitVec 12)) (s : State), s.sp.val + targets.length ≤ 16 →
    ∃ t, execAll (targets.map .call ++ List.replicate targets.length .ret) s = .next t ∧
      t = { s with stack := t.stack } ∧ ∀ k, (hk : k < s.sp.val) →
        t.stack[k]'(by have := s.sp.isLt; omega) = s.stack[k]'(by have := s.sp.isLt; omega)

/-- The six skips: PC <- PC + 2 on top of the fetch advance exactly when the condition holds, no flag and no exception;
EX9E and EXA1 for V[X] at most 15, the key state as it is at the step (R104 to R108, R180, R181). 3XKK and 4XKK with
their encodings: 0x3000 and 0x4000 under mask 0xF000, X = w[11:8], KK = w[7:0]. -/
def Obligations.SkipsAddTwo : Prop :=
  EncodedAs 0x3000#16 0xF000#16 (fun w => .seImm (w.extractLsb' 8 4) (w.extractLsb' 0 8)) ∧
  EncodedAs 0x4000#16 0xF000#16 (fun w => .sneImm (w.extractLsb' 8 4) (w.extractLsb' 0 8)) ∧
  ∀ (s : State) (x y : Reg) (kk : Byte),
    (∃ t, exec (.seImm x kk) s = .next t ∧ t.pc = (if s.getV x = kk then s.pc + 2#16 else s.pc) ∧
      t.getV vf = s.getV vf ∧ t.run = s.run) ∧
    (∃ t, exec (.sneImm x kk) s = .next t ∧ t.pc = (if s.getV x ≠ kk then s.pc + 2#16 else s.pc) ∧
      t.getV vf = s.getV vf ∧ t.run = s.run) ∧
    (∃ t, exec (.seReg x y) s = .next t ∧ t.pc = (if s.getV x = s.getV y then s.pc + 2#16 else s.pc) ∧
      t.getV vf = s.getV vf ∧ t.run = s.run) ∧
    (∃ t, exec (.sneReg x y) s = .next t ∧ t.pc = (if s.getV x ≠ s.getV y then s.pc + 2#16 else s.pc) ∧
      t.getV vf = s.getV vf ∧ t.run = s.run) ∧
    ((s.getV x).toNat ≤ 15 → ∃ t, exec (.skp x) s = .next t ∧
      t.pc = (if s.keys.getLsbD (s.getV x).toNat = true then s.pc + 2#16 else s.pc) ∧
      t.getV vf = s.getV vf ∧ t.run = s.run) ∧
    ((s.getV x).toNat ≤ 15 → ∃ t, exec (.sknp x) s = .next t ∧
      t.pc = (if s.keys.getLsbD (s.getV x).toNat = true then s.pc else s.pc + 2#16) ∧
      t.getV vf = s.getV vf ∧ t.run = s.run)

/-- EX9E and EXA1 with V[X] above 15 halt with InvalidKey and change nothing else (R186, R209; decision D13, log 13;
the record's pc decision D17, log 23). -/
def Obligations.KeySkipRejectsBadCode : Prop :=
  ∀ (s : State) (x : Reg), 15 < (s.getV x).toNat →
    exec (.skp x) s = .next { s with run := .halted ⟨.invalidKey, some (encode (.skp x)), some (s.pc - 2#16)⟩ } ∧
    exec (.sknp x) s = .next { s with run := .halted ⟨.invalidKey, some (encode (.sknp x)), some (s.pc - 2#16)⟩ }

/-! ## ALU -/

/-- 6XKK, 8XY0, FX07: VX <- KK, VY, DT; no flag but VX itself, no exception; FX07 leaves DT and its driver as they are
(R122, R124, R183). 6XKK and FX07 with their encodings: 0x6000 under mask 0xF000, 0xF007 under mask 0xF0FF. -/
def Obligations.RegisterLoads : Prop :=
  EncodedAs 0x6000#16 0xF000#16 (fun w => .ldImm (w.extractLsb' 8 4) (w.extractLsb' 0 8)) ∧
  EncodedAs 0xF007#16 0xF0FF#16 (fun w => .ldVxDt (w.extractLsb' 8 4)) ∧
  ∀ (s : State) (x y : Reg) (kk : Byte),
    (∃ t, exec (.ldImm x kk) s = .next t ∧ t.getV x = kk ∧ (x ≠ vf → t.getV vf = s.getV vf) ∧ t.run = s.run) ∧
    (∃ t, exec (.ldReg x y) s = .next t ∧ t.getV x = s.getV y ∧ (x ≠ vf → t.getV vf = s.getV vf) ∧ t.run = s.run) ∧
    (∃ t, exec (.ldVxDt x) s = .next t ∧ t.getV x = s.dt ∧ (x ≠ vf → t.getV vf = s.getV vf) ∧ t.run = s.run ∧
      t.dt = s.dt ∧ t.dtRunning = s.dtRunning)

/-- 7XKK, encoded 0x7000 under mask 0xF000: VX <- (VX + KK) mod 256; VF is not written unless X = F, where it receives
the sum; no exception (R123). -/
def Obligations.AddImmediateWraps : Prop :=
  EncodedAs 0x7000#16 0xF000#16 (fun w => .addImm (w.extractLsb' 8 4) (w.extractLsb' 0 8)) ∧
  ∀ (s : State) (x : Reg) (kk : Byte), ∃ t, exec (.addImm x kk) s = .next t ∧
    (t.getV x).toNat = ((s.getV x).toNat + kk.toNat) % 256 ∧ (x ≠ vf → t.getV vf = s.getV vf) ∧ t.run = s.run

/-- 8XY1, 8XY2, 8XY3: VX <- VX or, and, xor VY, bit by bit; VF not written (R125 to R127; that no flag is written is
R16's reading, decision D1, log 15). -/
def Obligations.LogicBitByBit : Prop :=
  ∀ (s : State) (x y : Reg),
    (∃ t, exec (.orReg x y) s = .next t ∧ t = { s with v := t.v } ∧ (∀ r, r ≠ x → t.getV r = s.getV r) ∧
      ∀ k, (t.getV x).getLsbD k = ((s.getV x).getLsbD k || (s.getV y).getLsbD k)) ∧
    (∃ t, exec (.andReg x y) s = .next t ∧ t = { s with v := t.v } ∧ (∀ r, r ≠ x → t.getV r = s.getV r) ∧
      ∀ k, (t.getV x).getLsbD k = ((s.getV x).getLsbD k && (s.getV y).getLsbD k)) ∧
    (∃ t, exec (.xorReg x y) s = .next t ∧ t = { s with v := t.v } ∧ (∀ r, r ≠ x → t.getV r = s.getV r) ∧
      ∀ k, (t.getV x).getLsbD k = ((s.getV x).getLsbD k ^^ (s.getV y).getLsbD k))

/-- 8XY4: the sum modulo 256 in VX unless X = F; VF is 1 exactly when the unwrapped sum of the old values exceeds 255,
else 0 (R128; X = F and the latch are decisions D2, D3, log 14). -/
def Obligations.AddRegisterCarries : Prop :=
  ∀ (s : State) (x y : Reg), ∃ t, exec (.addReg x y) s = .next t ∧
    (x ≠ vf → (t.getV x).toNat = ((s.getV x).toNat + (s.getV y).toNat) % 256) ∧
    (t.getV vf).toNat = (if 255 < (s.getV x).toNat + (s.getV y).toNat then 1 else 0) ∧
    (∀ r, r ≠ x → r ≠ vf → t.getV r = s.getV r) ∧ t = { s with v := t.v }

/-- 8XY5 and 8XY7: the difference modulo 256 in VX unless X = F; VF is 1 exactly when the old minuend is strictly
greater, so 0 on equality (R129, R131; X = F and the latch are decisions D2, D3, log 14; conflict C3, log 30). -/
def Obligations.SubtractFlagsStrictly : Prop :=
  ∀ (s : State) (x y : Reg),
    (∃ t, exec (.subReg x y) s = .next t ∧
      (x ≠ vf → (t.getV x).toNat = ((s.getV x).toNat + 256 - (s.getV y).toNat) % 256) ∧
      (t.getV vf).toNat = (if (s.getV y).toNat < (s.getV x).toNat then 1 else 0) ∧
      (∀ r, r ≠ x → r ≠ vf → t.getV r = s.getV r) ∧ t = { s with v := t.v }) ∧
    (∃ t, exec (.subnReg x y) s = .next t ∧
      (x ≠ vf → (t.getV x).toNat = ((s.getV y).toNat + 256 - (s.getV x).toNat) % 256) ∧
      (t.getV vf).toNat = (if (s.getV x).toNat < (s.getV y).toNat then 1 else 0) ∧
      (∀ r, r ≠ x → r ≠ vf → t.getV r = s.getV r) ∧ t = { s with v := t.v })

/-- 8XY6 and 8XYE shift VY by one into VX unless X = F; VF is VY's old bit 0 (0 or 1), or VY's old bit 7 where it
stands (0x00 or 0x80) (R130, R132; X = F and the latch are decisions D2, D3, log 14). -/
def Obligations.ShiftsSourceVy : Prop :=
  ∀ (s : State) (x y : Reg),
    (∃ t, exec (.shrReg x y) s = .next t ∧ (x ≠ vf → (t.getV x).toNat = (s.getV y).toNat / 2) ∧
      (t.getV vf).toNat = (s.getV y).toNat % 2 ∧
      (∀ r, r ≠ x → r ≠ vf → t.getV r = s.getV r) ∧ t = { s with v := t.v }) ∧
    (∃ t, exec (.shlReg x y) s = .next t ∧ (x ≠ vf → (t.getV x).toNat = (s.getV y).toNat * 2 % 256) ∧
      (t.getV vf).toNat = (if 128 ≤ (s.getV y).toNat then 0x80 else 0x00) ∧
      (∀ r, r ≠ x → r ≠ vf → t.getV r = s.getV r) ∧ t = { s with v := t.v })

/-- CXKK: VX <- r & KK for the byte r the host's source answers now; no bit outside KK is set (R133). r is the model's
free value, of which nothing is known, and the draw is counted (log 6): true whatever r is. -/
def Obligations.RandomByteIsMasked : Prop :=
  ∀ (s : State) (x : Reg) (kk : Byte), ∃ t, exec (.rnd x kk) s = .next t ∧
    t.getV x = Config.nextByte s.draws &&& kk ∧ t.getV x &&& ~~~kk = 0 ∧
    (∀ r, r ≠ x → t.getV r = s.getV r) ∧ t = { s with v := t.v, draws := s.draws + 1 }

/-! ## Index and memory -/

/-- ANNN, encoded 0xA000 under mask 0xF000 with NNN = w[11:0]: I <- NNN, whether addressable or not; no flag and no
exception (R140). -/
def Obligations.LoadIndexSetsI : Prop :=
  EncodedAs 0xA000#16 0xF000#16 (fun w => .ldI (w.extractLsb' 0 12)) ∧
  ∀ (s : State) (nnn : BitVec 12), ∃ t, exec (.ldI nnn) s = .next t ∧ t.i.toNat = nnn.toNat ∧
    t.getV vf = s.getV vf ∧ t.run = s.run

/-- FX1E: I <- (I + VX) mod 65536, no flag, nothing else (R141; the width is decision D20, log 16; that no flag is
written is decision D1, log 15). -/
def Obligations.AddIndexWraps : Prop :=
  ∀ (s : State) (x : Reg), ∃ t, exec (.addI x) s = .next t ∧
    t.i.toNat = (s.i.toNat + (s.getV x).toNat) % 65536 ∧ t = { s with i := t.i }

/-- FX29: with V[X] at most 15, I <- 0x50 + 5 * V[X], inside the font region with its five bytes; above 15,
InvalidDigit and nothing else (R142, R202; the address formula is R31's inference, log 3; the record's pc log 23). -/
def Obligations.FontGlyphAddress : Prop :=
  ∀ (s : State) (x : Reg),
    ((s.getV x).toNat ≤ 15 → ∃ t, exec (.ldF x) s = .next t ∧ t.i.toNat = 0x50 + 5 * (s.getV x).toNat ∧
      t.i.toNat + 4 < 0xA0 ∧ t = { s with i := t.i }) ∧
    (15 < (s.getV x).toNat →
      exec (.ldF x) s = .next { s with run := .halted ⟨.invalidDigit, some (encode (.ldF x)), some (s.pc - 2#16)⟩ })

/-- FX33, encoded 0xF033 under mask 0xF0FF: with I, I+1, I+2 addressable, the hundreds, tens and ones of VX at I, I+1,
I+2, I unchanged, no flag; otherwise MemoryProtectionViolation and no byte written (R143). The canonical form of RAM
is the invariant StepKeepsRamIntact. -/
def Obligations.BcdStoresDigits : Prop :=
  EncodedAs 0xF033#16 0xF0FF#16 (fun w => .ldB (w.extractLsb' 8 4)) ∧
  ∀ (s : State) (x : Reg),
    (s.ramWf = true → (∀ k, k < 3 → Addressable (s.i.toNat + k)) → ∃ t, exec (.ldB x) s = .next t ∧
      (t.read s.i.toNat).toNat = (s.getV x).toNat / 100 ∧
      (t.read (s.i.toNat + 1)).toNat = (s.getV x).toNat / 10 % 10 ∧
      (t.read (s.i.toNat + 2)).toNat = (s.getV x).toNat % 10 ∧
      t.i = s.i ∧ t.getV vf = s.getV vf ∧ t.run = s.run) ∧
    ((∃ k, k < 3 ∧ ¬Addressable (s.i.toNat + k)) → ∃ t r, exec (.ldB x) s = .next t ∧ t.run = .halted r ∧
      r.cause = .memoryProtectionViolation ∧ t.mem = s.mem)

/-- FX55: with I..I+X addressable, RAM[I + k] <- V[k] for k = 0..X, I and the registers unchanged; otherwise
MemoryProtectionViolation and no byte written (R144, R204; that I is unchanged is decision D1, log 15). -/
def Obligations.StoreRegistersStores : Prop :=
  ∀ (s : State) (x : Reg),
    (s.ramWf = true → (∀ k, k ≤ x.toNat → Addressable (s.i.toNat + k)) → ∃ t, exec (.storeRegs x) s = .next t ∧
      (∀ r : Reg, r.toNat ≤ x.toNat → t.read (s.i.toNat + r.toNat) = s.getV r) ∧ t = { s with mem := t.mem }) ∧
    ((∃ k, k ≤ x.toNat ∧ ¬Addressable (s.i.toNat + k)) → ∃ r, r.cause = .memoryProtectionViolation ∧
      exec (.storeRegs x) s = .next { s with run := .halted r })

/-- FX65: with I..I+X addressable, V[k] <- RAM[I + k] for k = 0..X, I, RAM and the other registers unchanged; otherwise
MemoryProtectionViolation and no register written (R145, R204; that I is unchanged is decision D1, log 15). -/
def Obligations.LoadRegistersLoads : Prop :=
  ∀ (s : State) (x : Reg),
    ((∀ k, k ≤ x.toNat → Addressable (s.i.toNat + k)) → ∃ t, exec (.loadRegs x) s = .next t ∧
      (∀ r : Reg, t.getV r = if r.toNat ≤ x.toNat then s.read (s.i.toNat + r.toNat) else s.getV r) ∧
      t = { s with v := t.v }) ∧
    ((∃ k, k ≤ x.toNat ∧ ¬Addressable (s.i.toNat + k)) → ∃ r, r.cause = .memoryProtectionViolation ∧
      exec (.loadRegs x) s = .next { s with run := .halted r })

/-- What FX55 stored, FX65 with the same X and I loads back, whatever the registers hold in between (R144, R145; I
unchanged is decision D1, log 15). -/
def Obligations.StoreThenLoadReturnsRegisters : Prop :=
  ∀ (s t : State) (x : Reg) (v' : Vector Byte 16), s.ramWf = true → s.run = .running →
    exec (.storeRegs x) s = .next t → t.run = .running →
    ∃ u, exec (.loadRegs x) { t with v := v' } = .next u ∧ u.run = .running ∧
      ∀ r : Reg, r.toNat ≤ x.toNat → u.getV r = s.getV r

/-- FX33 and FX55: every byte outside the span stored to reads as before, and nothing but RAM, or RUN when the span is
refused, changes (R16, R143, R144; the frame rule is decision D1, log 15). -/
def Obligations.StoresLeaveOtherBytes : Prop :=
  ∀ (s t : State) (x : Reg),
    (exec (.ldB x) s = .next t →
      (∀ a, a < s.spanBase ∨ s.spanBase + 3 ≤ a → t.read a = s.read a) ∧
      t = { s with mem := t.mem, run := t.run }) ∧
    (exec (.storeRegs x) s = .next t →
      (∀ a, a < s.spanBase ∨ s.spanBase + (x.toNat + 1) ≤ a → t.read a = s.read a) ∧
      t = { s with mem := t.mem, run := t.run })

/-- Every instruction but FX33 and FX55 leaves every byte of RAM as it was, fatal or not (R51, R60, R146; derived). -/
def Obligations.OtherInstructionsKeepRam : Prop :=
  ∀ (i : Instr) (s t : State), writesRam i = false → exec i s = .next t → ∀ a, t.read a = s.read a

/-- Self-modifying code: two bytes stored by FX55 are the word the next fetch there reads, with no delay (R64;
derived). -/
def Obligations.StoreIsSeenByFetch : Prop :=
  ∀ (s t : State) (x : Reg) (p : Word) (a b : Reg), s.ramWf = true → s.run = .running →
    exec (.storeRegs x) s = .next t → t.run = .running →
    p.toNat = s.i.toNat + a.toNat → b.toNat = a.toNat + 1 → b.toNat ≤ x.toNat →
    ({ t with pc := p }).fetchWord.toNat = (s.getV a).toNat * 256 + (s.getV b).toNat

/-! ## Display -/

/-- The word 0x00E0: every pixel off, VF not written, no exception (R160). -/
def Obligations.ClsBlanksScreen : Prop :=
  decode 0x00E0#16 = .instr .cls ∧
  ∀ s : State, ∃ t, exec .cls s = .next t ∧ (∀ x y, t.render x y = false) ∧ t.getV vf = s.getV vf ∧ t.run = s.run

/-- DXYN, when the span passes and the sprite does not run off the bottom: every pixel of the screen is XORed with the
sprite's pixel there, with horizontal wrap onto the same row; only VF among the registers, I and RAM unchanged (R161,
R162; the bit order and the equivalent column are the spec's derivations, log 17). -/
def Obligations.DrawXorsSprite : Prop :=
  ∀ (s : State) (x y : Reg) (n : BitVec 4),
    (∀ k, k < n.toNat → Addressable (s.i.toNat + k)) → (s.getV y).toNat % 32 + n.toNat ≤ 32 →
    ∃ t, exec (.drw x y n) s = .next t ∧
      (∀ c r, c < 64 → r < 32 → t.render c r =
        (s.render c r ^^
          spriteOn s.read s.i.toNat ((s.getV x).toNat % 64) ((s.getV y).toNat % 32) n.toNat c r)) ∧
      (∀ r, r ≠ vf → t.getV r = s.getV r) ∧ t = { s with fb := t.fb, v := t.v }

/-- DXYN that draws: VF is 1 exactly when some pixel went from on to off, else 0 (R163; the bytes 1 and 0 are decision
D11, log 17). -/
def Obligations.DrawReportsCollision : Prop :=
  ∀ (s t : State) (x y : Reg) (n : BitVec 4), s.run = .running → exec (.drw x y n) s = .next t → t.run = .running →
    ((t.getV vf).toNat = 1 ↔ ∃ c r, c < 64 ∧ r < 32 ∧ s.render c r = true ∧ t.render c r = false) ∧
    ((t.getV vf).toNat = 0 ∨ (t.getV vf).toNat = 1)

/-- DXYN's two tests, in order: the span first, then the vertical extent, each changing nothing but RUN (R161, R164,
R208, R212; decisions D10, D17, D18: log 12, 23, 28). -/
def Obligations.DrawTrapsInOrder : Prop :=
  ∀ (s : State) (x y : Reg) (n : BitVec 4),
    ((∃ k, k < n.toNat ∧ ¬Addressable (s.i.toNat + k)) → exec (.drw x y n) s = .next { s with
      run := .halted ⟨.memoryProtectionViolation, some (encode (.drw x y n)), some (s.pc - 2#16)⟩ }) ∧
    ((∀ k, k < n.toNat → Addressable (s.i.toNat + k)) → 32 < (s.getV y).toNat % 32 + n.toNat →
      exec (.drw x y n) s = .next { s with
        run := .halted ⟨.drawVerticalOverrun, some (encode (.drw x y n)), some (s.pc - 2#16)⟩ })

/-- Drawing the same sprite twice at the same place returns the framebuffer to its prior state, and the second draw
reports a collision when the first turned a pixel on (R163; that it reports it as VF = 1 is decision D11, log 17). -/
def Obligations.DrawTwiceRestores : Prop :=
  ∀ (s t : State) (x y : Reg) (n : BitVec 4), s.run = .running → exec (.drw x y n) s = .next t → t.run = .running →
    ∃ u, exec (.drw x y n) { t with v := s.v } = .next u ∧ u.fb = s.fb ∧
      ((∃ c r, c < 64 ∧ r < 32 ∧ s.render c r = false ∧ t.render c r = true) → (u.getV vf).toNat = 1)

/-! ## Keypad and timers -/

/-- FX0A: with keys down, the code of one of them to VX at once, RUN unchanged; with none down, RUN <- WaitKey(X) and
nothing else (R182; level-sensitive and which key are decision D14, log 7, 9). -/
def Obligations.WaitForKeyTakesHeldKeyOrWaits : Prop :=
  ∀ (s : State) (x : Reg),
    (s.keys ≠ 0#16 → ∃ (t : State) (k : Key), exec (.ldVxK x) s = .next t ∧ s.keys.getLsbD k.toNat = true ∧
      (t.getV x).toNat = k.toNat ∧ (∀ r, r ≠ x → t.getV r = s.getV r) ∧
      t = { s with v := t.v, keyPicks := t.keyPicks }) ∧
    (s.keys = 0#16 → exec (.ldVxK x) s = .next { s with run := .waitKey x })

/-- FX15 and FX18: DT <- VX, ST <- VX, nothing else; the timer's driver runs afterwards exactly when VX is not 0
(R184, R185, R36; driver-running as timer != 0 is decision D15, log 18). -/
def Obligations.TimerWritesSetTimer : Prop :=
  ∀ (s : State) (x : Reg),
    (∃ t, exec (.ldDtVx x) s = .next t ∧ t.dt = s.getV x ∧ (t.dtRunning = true ↔ (s.getV x).toNat ≠ 0) ∧
      t = { s with dt := t.dt }) ∧
    (∃ t, exec (.ldStVx x) s = .next t ∧ t.st = s.getV x ∧ (t.stRunning = true ↔ (s.getV x).toNat ≠ 0) ∧
      t = { s with st := t.st })

/-! ## The machine as a whole -/

/-- No instruction ends in a fault or a refusal, in any state, with any operands (R200, R211; log 10). -/
def Obligations.ExecAlwaysAnswers : Prop := ∀ (i : Instr) (s : State), ∃ t, exec i s = .next t

/-- Fatal conditions are precise: an instruction that halts the CORE changed nothing but RUN, the record names it and
PC0, and its cause is one the instruction may raise (R200, R210, R211; the record's pc is decision D17, log 23). -/
def Obligations.FatalConditionsArePrecise : Prop :=
  ∀ (i : Instr) (s t : State) (r : FaultRecord), s.run = .running → exec i s = .next t → t.run = .halted r →
    t = { s with run := .halted r } ∧ r.cause ∈ mayRaise i ∧ r.opcode = some (encode i) ∧ r.pc = some (s.pc - 2#16)

/-- From a state that is not halted, a step never halts with InvalidRegister, and halts with ProgramTooLarge only by
a load (R22, R201, R206; decision D32, log 25). -/
def Obligations.StepNeverRaisesInvalidRegister : Prop :=
  ∀ (s t : State) (r : FaultRecord), (∀ r', s.run ≠ .halted r') → step s = .next t → t.run = .halted r →
    r.cause ≠ .invalidRegister ∧
    (r.cause = .programTooLarge → ∃ image rest, s.schedule = .load image :: rest ∧ 3232 < image.length)

/-- Every register an instruction is not given to write keeps its value, fatal or not (R21, R23, R16; decision D1,
log 15). -/
def Obligations.RegisterFrame : Prop :=
  ∀ (i : Instr) (s t : State), exec i s = .next t → ∀ r, writesV i r = false → t.getV r = s.getV r

/-- I, PC beyond the fetch advance, SP, DT and ST change only by the instructions that write them, and a stack slot only
by 2NNN, at SP (R24, R27, R28, R32, R16; decision D1, log 15). -/
def Obligations.SpecialRegisterFrame : Prop :=
  ∀ (i : Instr) (s t : State), exec i s = .next t →
    (writesI i = false → t.i = s.i) ∧ (writesPc i = false → t.pc = s.pc) ∧
    (usesStack i = false → t.sp = s.sp) ∧
    (∀ k, (hk : k < 16) → ((∃ nnn, i = .call nnn) → k ≠ s.sp.val) → t.stack[k] = s.stack[k]) ∧
    ((∀ x, i ≠ .ldDtVx x) → t.dt = s.dt) ∧ ((∀ x, i ≠ .ldStVx x) → t.st = s.st)

/-- The framebuffer changes only by 00E0 and DXYN; no instruction changes the keys, the moves to come, the rounds or the
parameters; RUN changes only to WaitKey(X) by FX0A or to Halted (R34, R37, R8, R16; decision D1, log 15). -/
def Obligations.DisplayHostAndRunFrame : Prop :=
  ∀ (i : Instr) (s t : State), exec i s = .next t →
    (writesFb i = false → t.fb = s.fb) ∧
    t.keys = s.keys ∧ t.schedule = s.schedule ∧ t.loadOpen = s.loadOpen ∧
    t.params = s.params ∧ t.rounds = s.rounds ∧
    ((∀ x kk, i ≠ .rnd x kk) → t.draws = s.draws) ∧ ((∀ x, i ≠ .ldVxK x) → t.keyPicks = s.keyPicks) ∧
    (t.run = s.run ∨ (∃ r, t.run = .halted r) ∨ ∃ x, i = .ldVxK x ∧ t.run = .waitKey x)

/-- The step, whatever moves, keeps RAM in its canonical form with only addressable cells listed (R50, R53, R55;
derived). -/
def Obligations.StepKeepsRamIntact : Prop := ∀ s t : State, RamIntact s → step s = .next t → RamIntact t

/-- The step, whatever moves, keeps PC at most 0x10FE and every stack slot at most 0xEA0: PC arithmetic never wraps
(R27; the spec's derivation, log 16). -/
def Obligations.StepKeepsPcBounded : Prop := ∀ s t : State, PcBounded s → step s = .next t → PcBounded t

/-- The state after reset meets both invariants, whatever the parameters (R39, R5; log 1, 2). -/
def Obligations.ResetMeetsInvariants : Prop :=
  ∀ p : Config.Params, RamIntact (State.resetWith p) ∧ PcBounded (State.resetWith p)

/-- No step but reset changes a byte of a reserved range, or any byte outside RAM's addressable ranges (R50, R53, R55;
derived), and no step, reset included, changes the parameters the machine was built with (R5). -/
def Obligations.ReservedBytesNeverChange : Prop :=
  ∀ s t : State, step s = .next t → t.params = s.params ∧ ((∀ rest, s.schedule ≠ .reset :: rest) →
    ∀ a, ¬Addressable a → t.read a = s.read a)

/-- No instruction but FX07 and FX15 depends on DT, none but FX18 on ST, and none on INSTR_HZ: with another value it
does the same (R32, R62, R5, R260; derived). -/
def Obligations.TimersAreInvisible : Prop :=
  ∀ (i : Instr) (s t : State) (d : Byte) (hz : Nat), exec i s = .next t →
    ((∀ x, i ≠ .ldVxDt x ∧ i ≠ .ldDtVx x) → exec i { s with dt := d } = .next { t with dt := d }) ∧
    ((∀ x, i ≠ .ldStVx x) → exec i { s with st := d } = .next { t with st := d }) ∧
    exec i { s with params := { s.params with instrHz := hz } } =
      .next { t with params := { t.params with instrHz := hz } }

/-- Stack slots at or above SP are never read: with other values in them an instruction does the same, but for the
dead slots themselves (R28, U14; the representation is decision D30, log 27). -/
def Obligations.DeadStackSlotsAreUnobservable : Prop :=
  ∀ (i : Instr) (s t : State) (k' : Vector Word 16),
    (∀ k, (h : k < s.sp.val) → k'[k]'(by have := s.sp.isLt; omega) = s.stack[k]'(by have := s.sp.isLt; omega)) →
    exec i s = .next t →
    ∃ l' : Vector Word 16, exec i { s with stack := k' } = .next { t with stack := l' } ∧
      ∀ k, (h : k < t.sp.val) → l'[k]'(by have := t.sp.isLt; omega) = t.stack[k]'(by have := t.sp.isLt; omega)

/-- The done state of R232 repeats: an instr_tick from it changes nothing (but the moves to come, and that the image
load is closed, log 20), so it is done again (decision D28, log 29). -/
def Obligations.SelfJumpRepeats : Prop :=
  ∀ (s : State) (rest : List Move), Done s → s.schedule = .instrTick :: rest →
    step s = .next { s with schedule := rest, loadOpen := false } ∧ Done { s with schedule := rest, loadOpen := false }

/-- The status outputs: FATAL shows the record exactly while Halted, and SOUND_ON is ST != 0 (R13; the latter is
decision D23, log 29). -/
def Obligations.StatusOutputs : Prop :=
  ∀ s : State, (∀ r, s.fatal = some r ↔ s.run = .halted r) ∧ (s.soundOn = true ↔ s.st.toNat ≠ 0)
end

