-- ==== Sys2Proof/Laws/State.lean ====
section
/-! SUPPORT. One lemma per field of State per update, true by rfl, so that no later proof unfolds a record update. -/

namespace Sys2Proof.Machine

variable (s : State)

/-! ### setV -/

@[simp] theorem State.setV_v (x : Reg) (b : Byte) : (s.setV x b).v = s.v.set x.toNat b x.isLt := rfl
@[simp] theorem State.setV_i (x : Reg) (b : Byte) : (s.setV x b).i = s.i := rfl
@[simp] theorem State.setV_pc (x : Reg) (b : Byte) : (s.setV x b).pc = s.pc := rfl
@[simp] theorem State.setV_sp (x : Reg) (b : Byte) : (s.setV x b).sp = s.sp := rfl
@[simp] theorem State.setV_stack (x : Reg) (b : Byte) : (s.setV x b).stack = s.stack := rfl
@[simp] theorem State.setV_dt (x : Reg) (b : Byte) : (s.setV x b).dt = s.dt := rfl
@[simp] theorem State.setV_st (x : Reg) (b : Byte) : (s.setV x b).st = s.st := rfl
@[simp] theorem State.setV_mem (x : Reg) (b : Byte) : (s.setV x b).mem = s.mem := rfl
@[simp] theorem State.setV_fb (x : Reg) (b : Byte) : (s.setV x b).fb = s.fb := rfl
@[simp] theorem State.setV_run (x : Reg) (b : Byte) : (s.setV x b).run = s.run := rfl
@[simp] theorem State.setV_keys (x : Reg) (b : Byte) : (s.setV x b).keys = s.keys := rfl
@[simp] theorem State.setV_loadOpen (x : Reg) (b : Byte) : (s.setV x b).loadOpen = s.loadOpen := rfl
@[simp] theorem State.setV_schedule (x : Reg) (b : Byte) : (s.setV x b).schedule = s.schedule := rfl
@[simp] theorem State.setV_draws (x : Reg) (b : Byte) : (s.setV x b).draws = s.draws := rfl
@[simp] theorem State.setV_keyPicks (x : Reg) (b : Byte) : (s.setV x b).keyPicks = s.keyPicks := rfl
@[simp] theorem State.setV_params (x : Reg) (b : Byte) : (s.setV x b).params = s.params := rfl
@[simp] theorem State.setV_rounds (x : Reg) (b : Byte) : (s.setV x b).rounds = s.rounds := rfl
@[simp] theorem State.setV_read (x : Reg) (b : Byte) (q : Nat) : (s.setV x b).read q = s.read q := rfl

/-! ### setI -/

@[simp] theorem State.setI_v (a : Word) : (s.setI a).v = s.v := rfl
@[simp] theorem State.setI_i (a : Word) : (s.setI a).i = a := rfl
@[simp] theorem State.setI_pc (a : Word) : (s.setI a).pc = s.pc := rfl
@[simp] theorem State.setI_sp (a : Word) : (s.setI a).sp = s.sp := rfl
@[simp] theorem State.setI_stack (a : Word) : (s.setI a).stack = s.stack := rfl
@[simp] theorem State.setI_dt (a : Word) : (s.setI a).dt = s.dt := rfl
@[simp] theorem State.setI_st (a : Word) : (s.setI a).st = s.st := rfl
@[simp] theorem State.setI_mem (a : Word) : (s.setI a).mem = s.mem := rfl
@[simp] theorem State.setI_fb (a : Word) : (s.setI a).fb = s.fb := rfl
@[simp] theorem State.setI_run (a : Word) : (s.setI a).run = s.run := rfl
@[simp] theorem State.setI_keys (a : Word) : (s.setI a).keys = s.keys := rfl
@[simp] theorem State.setI_loadOpen (a : Word) : (s.setI a).loadOpen = s.loadOpen := rfl
@[simp] theorem State.setI_schedule (a : Word) : (s.setI a).schedule = s.schedule := rfl
@[simp] theorem State.setI_draws (a : Word) : (s.setI a).draws = s.draws := rfl
@[simp] theorem State.setI_keyPicks (a : Word) : (s.setI a).keyPicks = s.keyPicks := rfl
@[simp] theorem State.setI_params (a : Word) : (s.setI a).params = s.params := rfl
@[simp] theorem State.setI_rounds (a : Word) : (s.setI a).rounds = s.rounds := rfl
@[simp] theorem State.setI_read (a : Word) (q : Nat) : (s.setI a).read q = s.read q := rfl
@[simp] theorem State.setI_getV (a : Word) (q : Reg) : (s.setI a).getV q = s.getV q := rfl

/-! ### setPc -/

@[simp] theorem State.setPc_v (a : Word) : (s.setPc a).v = s.v := rfl
@[simp] theorem State.setPc_i (a : Word) : (s.setPc a).i = s.i := rfl
@[simp] theorem State.setPc_pc (a : Word) : (s.setPc a).pc = a := rfl
@[simp] theorem State.setPc_sp (a : Word) : (s.setPc a).sp = s.sp := rfl
@[simp] theorem State.setPc_stack (a : Word) : (s.setPc a).stack = s.stack := rfl
@[simp] theorem State.setPc_dt (a : Word) : (s.setPc a).dt = s.dt := rfl
@[simp] theorem State.setPc_st (a : Word) : (s.setPc a).st = s.st := rfl
@[simp] theorem State.setPc_mem (a : Word) : (s.setPc a).mem = s.mem := rfl
@[simp] theorem State.setPc_fb (a : Word) : (s.setPc a).fb = s.fb := rfl
@[simp] theorem State.setPc_run (a : Word) : (s.setPc a).run = s.run := rfl
@[simp] theorem State.setPc_keys (a : Word) : (s.setPc a).keys = s.keys := rfl
@[simp] theorem State.setPc_loadOpen (a : Word) : (s.setPc a).loadOpen = s.loadOpen := rfl
@[simp] theorem State.setPc_schedule (a : Word) : (s.setPc a).schedule = s.schedule := rfl
@[simp] theorem State.setPc_draws (a : Word) : (s.setPc a).draws = s.draws := rfl
@[simp] theorem State.setPc_keyPicks (a : Word) : (s.setPc a).keyPicks = s.keyPicks := rfl
@[simp] theorem State.setPc_params (a : Word) : (s.setPc a).params = s.params := rfl
@[simp] theorem State.setPc_rounds (a : Word) : (s.setPc a).rounds = s.rounds := rfl
@[simp] theorem State.setPc_read (a : Word) (q : Nat) : (s.setPc a).read q = s.read q := rfl
@[simp] theorem State.setPc_getV (a : Word) (q : Reg) : (s.setPc a).getV q = s.getV q := rfl

/-! ### advancePc -/

@[simp] theorem State.advancePc_v : (s.advancePc).v = s.v := rfl
@[simp] theorem State.advancePc_i : (s.advancePc).i = s.i := rfl
@[simp] theorem State.advancePc_pc : (s.advancePc).pc = s.pc + 2#16 := rfl
@[simp] theorem State.advancePc_sp : (s.advancePc).sp = s.sp := rfl
@[simp] theorem State.advancePc_stack : (s.advancePc).stack = s.stack := rfl
@[simp] theorem State.advancePc_dt : (s.advancePc).dt = s.dt := rfl
@[simp] theorem State.advancePc_st : (s.advancePc).st = s.st := rfl
@[simp] theorem State.advancePc_mem : (s.advancePc).mem = s.mem := rfl
@[simp] theorem State.advancePc_fb : (s.advancePc).fb = s.fb := rfl
@[simp] theorem State.advancePc_run : (s.advancePc).run = s.run := rfl
@[simp] theorem State.advancePc_keys : (s.advancePc).keys = s.keys := rfl
@[simp] theorem State.advancePc_loadOpen : (s.advancePc).loadOpen = s.loadOpen := rfl
@[simp] theorem State.advancePc_schedule : (s.advancePc).schedule = s.schedule := rfl
@[simp] theorem State.advancePc_draws : (s.advancePc).draws = s.draws := rfl
@[simp] theorem State.advancePc_keyPicks : (s.advancePc).keyPicks = s.keyPicks := rfl
@[simp] theorem State.advancePc_params : (s.advancePc).params = s.params := rfl
@[simp] theorem State.advancePc_rounds : (s.advancePc).rounds = s.rounds := rfl
@[simp] theorem State.advancePc_read (q : Nat) : (s.advancePc).read q = s.read q := rfl
@[simp] theorem State.advancePc_getV (q : Reg) : (s.advancePc).getV q = s.getV q := rfl

/-! ### setDt -/

@[simp] theorem State.setDt_v (b : Byte) : (s.setDt b).v = s.v := rfl
@[simp] theorem State.setDt_i (b : Byte) : (s.setDt b).i = s.i := rfl
@[simp] theorem State.setDt_pc (b : Byte) : (s.setDt b).pc = s.pc := rfl
@[simp] theorem State.setDt_sp (b : Byte) : (s.setDt b).sp = s.sp := rfl
@[simp] theorem State.setDt_stack (b : Byte) : (s.setDt b).stack = s.stack := rfl
@[simp] theorem State.setDt_dt (b : Byte) : (s.setDt b).dt = b := rfl
@[simp] theorem State.setDt_st (b : Byte) : (s.setDt b).st = s.st := rfl
@[simp] theorem State.setDt_mem (b : Byte) : (s.setDt b).mem = s.mem := rfl
@[simp] theorem State.setDt_fb (b : Byte) : (s.setDt b).fb = s.fb := rfl
@[simp] theorem State.setDt_run (b : Byte) : (s.setDt b).run = s.run := rfl
@[simp] theorem State.setDt_keys (b : Byte) : (s.setDt b).keys = s.keys := rfl
@[simp] theorem State.setDt_loadOpen (b : Byte) : (s.setDt b).loadOpen = s.loadOpen := rfl
@[simp] theorem State.setDt_schedule (b : Byte) : (s.setDt b).schedule = s.schedule := rfl
@[simp] theorem State.setDt_draws (b : Byte) : (s.setDt b).draws = s.draws := rfl
@[simp] theorem State.setDt_keyPicks (b : Byte) : (s.setDt b).keyPicks = s.keyPicks := rfl
@[simp] theorem State.setDt_params (b : Byte) : (s.setDt b).params = s.params := rfl
@[simp] theorem State.setDt_rounds (b : Byte) : (s.setDt b).rounds = s.rounds := rfl
@[simp] theorem State.setDt_read (b : Byte) (q : Nat) : (s.setDt b).read q = s.read q := rfl
@[simp] theorem State.setDt_getV (b : Byte) (q : Reg) : (s.setDt b).getV q = s.getV q := rfl

/-! ### setSt -/

@[simp] theorem State.setSt_v (b : Byte) : (s.setSt b).v = s.v := rfl
@[simp] theorem State.setSt_i (b : Byte) : (s.setSt b).i = s.i := rfl
@[simp] theorem State.setSt_pc (b : Byte) : (s.setSt b).pc = s.pc := rfl
@[simp] theorem State.setSt_sp (b : Byte) : (s.setSt b).sp = s.sp := rfl
@[simp] theorem State.setSt_stack (b : Byte) : (s.setSt b).stack = s.stack := rfl
@[simp] theorem State.setSt_dt (b : Byte) : (s.setSt b).dt = s.dt := rfl
@[simp] theorem State.setSt_st (b : Byte) : (s.setSt b).st = b := rfl
@[simp] theorem State.setSt_mem (b : Byte) : (s.setSt b).mem = s.mem := rfl
@[simp] theorem State.setSt_fb (b : Byte) : (s.setSt b).fb = s.fb := rfl
@[simp] theorem State.setSt_run (b : Byte) : (s.setSt b).run = s.run := rfl
@[simp] theorem State.setSt_keys (b : Byte) : (s.setSt b).keys = s.keys := rfl
@[simp] theorem State.setSt_loadOpen (b : Byte) : (s.setSt b).loadOpen = s.loadOpen := rfl
@[simp] theorem State.setSt_schedule (b : Byte) : (s.setSt b).schedule = s.schedule := rfl
@[simp] theorem State.setSt_draws (b : Byte) : (s.setSt b).draws = s.draws := rfl
@[simp] theorem State.setSt_keyPicks (b : Byte) : (s.setSt b).keyPicks = s.keyPicks := rfl
@[simp] theorem State.setSt_params (b : Byte) : (s.setSt b).params = s.params := rfl
@[simp] theorem State.setSt_rounds (b : Byte) : (s.setSt b).rounds = s.rounds := rfl
@[simp] theorem State.setSt_read (b : Byte) (q : Nat) : (s.setSt b).read q = s.read q := rfl
@[simp] theorem State.setSt_getV (b : Byte) (q : Reg) : (s.setSt b).getV q = s.getV q := rfl

/-! ### setRun -/

@[simp] theorem State.setRun_v (r : RunState) : (s.setRun r).v = s.v := rfl
@[simp] theorem State.setRun_i (r : RunState) : (s.setRun r).i = s.i := rfl
@[simp] theorem State.setRun_pc (r : RunState) : (s.setRun r).pc = s.pc := rfl
@[simp] theorem State.setRun_sp (r : RunState) : (s.setRun r).sp = s.sp := rfl
@[simp] theorem State.setRun_stack (r : RunState) : (s.setRun r).stack = s.stack := rfl
@[simp] theorem State.setRun_dt (r : RunState) : (s.setRun r).dt = s.dt := rfl
@[simp] theorem State.setRun_st (r : RunState) : (s.setRun r).st = s.st := rfl
@[simp] theorem State.setRun_mem (r : RunState) : (s.setRun r).mem = s.mem := rfl
@[simp] theorem State.setRun_fb (r : RunState) : (s.setRun r).fb = s.fb := rfl
@[simp] theorem State.setRun_run (r : RunState) : (s.setRun r).run = r := rfl
@[simp] theorem State.setRun_keys (r : RunState) : (s.setRun r).keys = s.keys := rfl
@[simp] theorem State.setRun_loadOpen (r : RunState) : (s.setRun r).loadOpen = s.loadOpen := rfl
@[simp] theorem State.setRun_schedule (r : RunState) : (s.setRun r).schedule = s.schedule := rfl
@[simp] theorem State.setRun_draws (r : RunState) : (s.setRun r).draws = s.draws := rfl
@[simp] theorem State.setRun_keyPicks (r : RunState) : (s.setRun r).keyPicks = s.keyPicks := rfl
@[simp] theorem State.setRun_params (r : RunState) : (s.setRun r).params = s.params := rfl
@[simp] theorem State.setRun_rounds (r : RunState) : (s.setRun r).rounds = s.rounds := rfl
@[simp] theorem State.setRun_read (r : RunState) (q : Nat) : (s.setRun r).read q = s.read q := rfl
@[simp] theorem State.setRun_getV (r : RunState) (q : Reg) : (s.setRun r).getV q = s.getV q := rfl

/-! ### startRun -/

@[simp] theorem State.startRun_v : (s.startRun).v = s.v := rfl
@[simp] theorem State.startRun_i : (s.startRun).i = s.i := rfl
@[simp] theorem State.startRun_pc : (s.startRun).pc = s.pc := rfl
@[simp] theorem State.startRun_sp : (s.startRun).sp = s.sp := rfl
@[simp] theorem State.startRun_stack : (s.startRun).stack = s.stack := rfl
@[simp] theorem State.startRun_dt : (s.startRun).dt = s.dt := rfl
@[simp] theorem State.startRun_st : (s.startRun).st = s.st := rfl
@[simp] theorem State.startRun_mem : (s.startRun).mem = s.mem := rfl
@[simp] theorem State.startRun_fb : (s.startRun).fb = s.fb := rfl
@[simp] theorem State.startRun_run : (s.startRun).run = s.run := rfl
@[simp] theorem State.startRun_keys : (s.startRun).keys = s.keys := rfl
@[simp] theorem State.startRun_loadOpen : (s.startRun).loadOpen = false := rfl
@[simp] theorem State.startRun_schedule : (s.startRun).schedule = s.schedule := rfl
@[simp] theorem State.startRun_draws : (s.startRun).draws = s.draws := rfl
@[simp] theorem State.startRun_keyPicks : (s.startRun).keyPicks = s.keyPicks := rfl
@[simp] theorem State.startRun_params : (s.startRun).params = s.params := rfl
@[simp] theorem State.startRun_rounds : (s.startRun).rounds = s.rounds := rfl
@[simp] theorem State.startRun_read (q : Nat) : (s.startRun).read q = s.read q := rfl
@[simp] theorem State.startRun_getV (q : Reg) : (s.startRun).getV q = s.getV q := rfl

/-! ### halt -/

@[simp] theorem State.halt_v (r : FaultRecord) : (s.halt r).v = s.v := rfl
@[simp] theorem State.halt_i (r : FaultRecord) : (s.halt r).i = s.i := rfl
@[simp] theorem State.halt_pc (r : FaultRecord) : (s.halt r).pc = s.pc := rfl
@[simp] theorem State.halt_sp (r : FaultRecord) : (s.halt r).sp = s.sp := rfl
@[simp] theorem State.halt_stack (r : FaultRecord) : (s.halt r).stack = s.stack := rfl
@[simp] theorem State.halt_dt (r : FaultRecord) : (s.halt r).dt = s.dt := rfl
@[simp] theorem State.halt_st (r : FaultRecord) : (s.halt r).st = s.st := rfl
@[simp] theorem State.halt_mem (r : FaultRecord) : (s.halt r).mem = s.mem := rfl
@[simp] theorem State.halt_fb (r : FaultRecord) : (s.halt r).fb = s.fb := rfl
@[simp] theorem State.halt_run (r : FaultRecord) : (s.halt r).run = .halted r := rfl
@[simp] theorem State.halt_keys (r : FaultRecord) : (s.halt r).keys = s.keys := rfl
@[simp] theorem State.halt_loadOpen (r : FaultRecord) : (s.halt r).loadOpen = s.loadOpen := rfl
@[simp] theorem State.halt_schedule (r : FaultRecord) : (s.halt r).schedule = s.schedule := rfl
@[simp] theorem State.halt_draws (r : FaultRecord) : (s.halt r).draws = s.draws := rfl
@[simp] theorem State.halt_keyPicks (r : FaultRecord) : (s.halt r).keyPicks = s.keyPicks := rfl
@[simp] theorem State.halt_params (r : FaultRecord) : (s.halt r).params = s.params := rfl
@[simp] theorem State.halt_rounds (r : FaultRecord) : (s.halt r).rounds = s.rounds := rfl
@[simp] theorem State.halt_read (r : FaultRecord) (q : Nat) : (s.halt r).read q = s.read q := rfl
@[simp] theorem State.halt_getV (r : FaultRecord) (q : Reg) : (s.halt r).getV q = s.getV q := rfl

/-! ### setFb -/

@[simp] theorem State.setFb_v (f : Frame) : (s.setFb f).v = s.v := rfl
@[simp] theorem State.setFb_i (f : Frame) : (s.setFb f).i = s.i := rfl
@[simp] theorem State.setFb_pc (f : Frame) : (s.setFb f).pc = s.pc := rfl
@[simp] theorem State.setFb_sp (f : Frame) : (s.setFb f).sp = s.sp := rfl
@[simp] theorem State.setFb_stack (f : Frame) : (s.setFb f).stack = s.stack := rfl
@[simp] theorem State.setFb_dt (f : Frame) : (s.setFb f).dt = s.dt := rfl
@[simp] theorem State.setFb_st (f : Frame) : (s.setFb f).st = s.st := rfl
@[simp] theorem State.setFb_mem (f : Frame) : (s.setFb f).mem = s.mem := rfl
@[simp] theorem State.setFb_fb (f : Frame) : (s.setFb f).fb = f := rfl
@[simp] theorem State.setFb_run (f : Frame) : (s.setFb f).run = s.run := rfl
@[simp] theorem State.setFb_keys (f : Frame) : (s.setFb f).keys = s.keys := rfl
@[simp] theorem State.setFb_loadOpen (f : Frame) : (s.setFb f).loadOpen = s.loadOpen := rfl
@[simp] theorem State.setFb_schedule (f : Frame) : (s.setFb f).schedule = s.schedule := rfl
@[simp] theorem State.setFb_draws (f : Frame) : (s.setFb f).draws = s.draws := rfl
@[simp] theorem State.setFb_keyPicks (f : Frame) : (s.setFb f).keyPicks = s.keyPicks := rfl
@[simp] theorem State.setFb_params (f : Frame) : (s.setFb f).params = s.params := rfl
@[simp] theorem State.setFb_rounds (f : Frame) : (s.setFb f).rounds = s.rounds := rfl
@[simp] theorem State.setFb_read (f : Frame) (q : Nat) : (s.setFb f).read q = s.read q := rfl
@[simp] theorem State.setFb_getV (f : Frame) (q : Reg) : (s.setFb f).getV q = s.getV q := rfl

/-! ### keyPicked -/

@[simp] theorem State.keyPicked_v : (s.keyPicked).v = s.v := rfl
@[simp] theorem State.keyPicked_i : (s.keyPicked).i = s.i := rfl
@[simp] theorem State.keyPicked_pc : (s.keyPicked).pc = s.pc := rfl
@[simp] theorem State.keyPicked_sp : (s.keyPicked).sp = s.sp := rfl
@[simp] theorem State.keyPicked_stack : (s.keyPicked).stack = s.stack := rfl
@[simp] theorem State.keyPicked_dt : (s.keyPicked).dt = s.dt := rfl
@[simp] theorem State.keyPicked_st : (s.keyPicked).st = s.st := rfl
@[simp] theorem State.keyPicked_mem : (s.keyPicked).mem = s.mem := rfl
@[simp] theorem State.keyPicked_fb : (s.keyPicked).fb = s.fb := rfl
@[simp] theorem State.keyPicked_run : (s.keyPicked).run = s.run := rfl
@[simp] theorem State.keyPicked_keys : (s.keyPicked).keys = s.keys := rfl
@[simp] theorem State.keyPicked_loadOpen : (s.keyPicked).loadOpen = s.loadOpen := rfl
@[simp] theorem State.keyPicked_schedule : (s.keyPicked).schedule = s.schedule := rfl
@[simp] theorem State.keyPicked_draws : (s.keyPicked).draws = s.draws := rfl
@[simp] theorem State.keyPicked_keyPicks : (s.keyPicked).keyPicks = s.keyPicks + 1 := rfl
@[simp] theorem State.keyPicked_params : (s.keyPicked).params = s.params := rfl
@[simp] theorem State.keyPicked_rounds : (s.keyPicked).rounds = s.rounds := rfl
@[simp] theorem State.keyPicked_read (q : Nat) : (s.keyPicked).read q = s.read q := rfl
@[simp] theorem State.keyPicked_getV (q : Reg) : (s.keyPicked).getV q = s.getV q := rfl

/-! ### drawn -/

@[simp] theorem State.drawn_v : (s.drawn).v = s.v := rfl
@[simp] theorem State.drawn_i : (s.drawn).i = s.i := rfl
@[simp] theorem State.drawn_pc : (s.drawn).pc = s.pc := rfl
@[simp] theorem State.drawn_sp : (s.drawn).sp = s.sp := rfl
@[simp] theorem State.drawn_stack : (s.drawn).stack = s.stack := rfl
@[simp] theorem State.drawn_dt : (s.drawn).dt = s.dt := rfl
@[simp] theorem State.drawn_st : (s.drawn).st = s.st := rfl
@[simp] theorem State.drawn_mem : (s.drawn).mem = s.mem := rfl
@[simp] theorem State.drawn_fb : (s.drawn).fb = s.fb := rfl
@[simp] theorem State.drawn_run : (s.drawn).run = s.run := rfl
@[simp] theorem State.drawn_keys : (s.drawn).keys = s.keys := rfl
@[simp] theorem State.drawn_loadOpen : (s.drawn).loadOpen = s.loadOpen := rfl
@[simp] theorem State.drawn_schedule : (s.drawn).schedule = s.schedule := rfl
@[simp] theorem State.drawn_draws : (s.drawn).draws = s.draws + 1 := rfl
@[simp] theorem State.drawn_keyPicks : (s.drawn).keyPicks = s.keyPicks := rfl
@[simp] theorem State.drawn_params : (s.drawn).params = s.params := rfl
@[simp] theorem State.drawn_rounds : (s.drawn).rounds = s.rounds := rfl
@[simp] theorem State.drawn_read (q : Nat) : (s.drawn).read q = s.read q := rfl
@[simp] theorem State.drawn_getV (q : Reg) : (s.drawn).getV q = s.getV q := rfl

/-! ### store -/

@[simp] theorem State.store_v (a : Nat) (bs : List Byte) : (s.store a bs).v = s.v := rfl
@[simp] theorem State.store_i (a : Nat) (bs : List Byte) : (s.store a bs).i = s.i := rfl
@[simp] theorem State.store_pc (a : Nat) (bs : List Byte) : (s.store a bs).pc = s.pc := rfl
@[simp] theorem State.store_sp (a : Nat) (bs : List Byte) : (s.store a bs).sp = s.sp := rfl
@[simp] theorem State.store_stack (a : Nat) (bs : List Byte) : (s.store a bs).stack = s.stack := rfl
@[simp] theorem State.store_dt (a : Nat) (bs : List Byte) : (s.store a bs).dt = s.dt := rfl
@[simp] theorem State.store_st (a : Nat) (bs : List Byte) : (s.store a bs).st = s.st := rfl
@[simp] theorem State.store_fb (a : Nat) (bs : List Byte) : (s.store a bs).fb = s.fb := rfl
@[simp] theorem State.store_run (a : Nat) (bs : List Byte) : (s.store a bs).run = s.run := rfl
@[simp] theorem State.store_keys (a : Nat) (bs : List Byte) : (s.store a bs).keys = s.keys := rfl
@[simp] theorem State.store_params (a : Nat) (bs : List Byte) : (s.store a bs).params = s.params := rfl
@[simp] theorem State.store_loadOpen (a : Nat) (bs : List Byte) : (s.store a bs).loadOpen = s.loadOpen := rfl
@[simp] theorem State.store_schedule (a : Nat) (bs : List Byte) : (s.store a bs).schedule = s.schedule := rfl
@[simp] theorem State.store_rounds (a : Nat) (bs : List Byte) : (s.store a bs).rounds = s.rounds := rfl
@[simp] theorem State.store_draws (a : Nat) (bs : List Byte) : (s.store a bs).draws = s.draws := rfl
@[simp] theorem State.store_keyPicks (a : Nat) (bs : List Byte) : (s.store a bs).keyPicks = s.keyPicks := rfl
@[simp] theorem State.store_mem (a : Nat) (bs : List Byte) :
    (s.store a bs).mem = s.mem.writeAll s.params.font a bs := rfl
@[simp] theorem State.store_getV (a : Nat) (bs : List Byte) (q : Reg) : (s.store a bs).getV q = s.getV q := rfl

/-! ### drawRound -/

@[simp] theorem State.drawRound_v : s.drawRound.v = s.v := rfl
@[simp] theorem State.drawRound_i : s.drawRound.i = s.i := rfl
@[simp] theorem State.drawRound_pc : s.drawRound.pc = s.pc := rfl
@[simp] theorem State.drawRound_sp : s.drawRound.sp = s.sp := rfl
@[simp] theorem State.drawRound_stack : s.drawRound.stack = s.stack := rfl
@[simp] theorem State.drawRound_dt : s.drawRound.dt = s.dt := rfl
@[simp] theorem State.drawRound_st : s.drawRound.st = s.st := rfl
@[simp] theorem State.drawRound_mem : s.drawRound.mem = s.mem := rfl
@[simp] theorem State.drawRound_fb : s.drawRound.fb = s.fb := rfl
@[simp] theorem State.drawRound_run : s.drawRound.run = s.run := rfl
@[simp] theorem State.drawRound_keys : s.drawRound.keys = s.keys := rfl
@[simp] theorem State.drawRound_params : s.drawRound.params = s.params := rfl
@[simp] theorem State.drawRound_loadOpen : s.drawRound.loadOpen = s.loadOpen := rfl
@[simp] theorem State.drawRound_draws : s.drawRound.draws = s.draws := rfl
@[simp] theorem State.drawRound_keyPicks : s.drawRound.keyPicks = s.keyPicks := rfl
@[simp] theorem State.drawRound_schedule : s.drawRound.schedule = roundMoves (Config.round s.rounds) := rfl
@[simp] theorem State.drawRound_rounds : s.drawRound.rounds = s.rounds + 1 := rfl

end Sys2Proof.Machine
end

