-- ==== Sys2Proof/Laws/Framebuffer.lean ====
section
/-! SUPPORT. What flipping a pixel, blanking the frame and XORing one sprite bit do to every pixel (rules R160, R162). -/

namespace Sys2Proof.Machine

/-- A flip changes the pixel flipped and no other (R162). -/
theorem pixel_flipPixel (f : Frame) {k j : Nat} (hk : k < 2048) (hj : j < 2048) :
    pixel (flipPixel f k) j = (pixel f j ^^ decide (j = k)) := by
  have h1 : k / 64 < 32 := by omega
  have h2 : j / 64 < 32 := by omega
  have h3 : k % 64 < 64 := by omega
  have h4 : j % 64 < 64 := by omega
  simp only [pixel, flipPixel, Config.fbWidth, h1, h2, dite_true]
  rw [Vector.getElem_set]
  by_cases e : k / 64 = j / 64
  · simp only [e, if_true, BitVec.getLsbD_xor, BitVec.getLsbD_twoPow]
    congr 1
    by_cases e' : j = k
    · subst e'; simp [h4]
    · have : k % 64 ≠ j % 64 := by omega
      simp [e', this]
  · rw [if_neg e]
    have : j ≠ k := by rintro rfl; exact e rfl
    simp [this]

/-- A blank frame has every pixel off (R160). -/
@[simp] theorem pixel_blankFrame (k : Nat) : pixel blankFrame k = false := by
  unfold pixel blankFrame; split <;> simp

/-- Two frames with the same pixels are the same. -/
theorem frame_ext_pixel {f g : Frame} (h : ∀ k, k < 2048 → pixel f k = pixel g k) : f = g := by
  apply Vector.ext
  intro y hy
  apply BitVec.eq_of_getLsbD_eq
  intro x hx
  have := h (x + 64 * y) (by omega)
  have h1 : (x + 64 * y) / 64 = y := by omega
  have h2 : (x + 64 * y) % 64 = x := by omega
  simpa [pixel, Config.fbWidth, h1, h2, hy] using this

/-- The target of bit b of a row is column (x0 + b) mod 64 of that row (R162). -/
theorem blitTarget_eq {x0 b : Nat} (row : Nat) (hx : x0 < 64) (hb : b < 8) :
    blitTarget x0 row b = (x0 + b) % 64 + row * 64 := by
  simp only [blitTarget, Config.fbWidth]
  split <;> omega

/-- XORing one sprite bit: the target pixel flips when the bit is 1 (R162). -/
theorem pixel_blitBit (byte : Byte) {x0 row b j : Nat} (acc : Frame × Bool)
    (hk : blitTarget x0 row b < 2048) (hj : j < 2048) :
    pixel (blitBit byte x0 row acc b).1 j =
      (pixel acc.1 j ^^ (spriteBit byte b && decide (j = blitTarget x0 row b))) := by
  unfold blitBit
  split
  · rename_i h; simp [h, pixel_flipPixel _ hk hj]
  · rename_i h; simp [h]

/-- XORing one sprite bit: a collision is an earlier one, or the bit is 1 on a pixel that is on (R163). -/
theorem collided_blitBit (byte : Byte) (x0 row b : Nat) (acc : Frame × Bool) :
    (blitBit byte x0 row acc b).2 = (acc.2 || (spriteBit byte b && pixel acc.1 (blitTarget x0 row b))) := by
  unfold blitBit
  split
  · rename_i h; simp [h]
  · rename_i h; simp [h]

end Sys2Proof.Machine
end

