-- ==== Sys2Proof/Laws/Blit.lean ====
section
/-! SUPPORT. All that the sprite blit can do, as one closed form over every pixel, and its collision (rules R162, R163). -/

namespace Sys2Proof.Machine

/-- The sprite byte drawn at column x0 of a row covers FB[j] with a 1 bit, wrapping onto the same row (R162). -/
def rowLights (byte : Byte) (x0 row j : Nat) : Bool :=
  decide (j / 64 = row ∧ (j % 64 + 64 - x0) % 64 < 8) && byte.getLsbD (7 - (j % 64 + 64 - x0) % 64)

/-- After the first n bits of a row, the pixels under them are XORed (R162). -/
theorem pixel_blitBits (byte : Byte) {x0 row j : Nat} (hx : x0 < 64) (hrow : row < 32) (hj : j < 2048)
    (acc : Frame × Bool) (n : Nat) (hn : n ≤ 8) :
    pixel ((List.range n).foldl (blitBit byte x0 row) acc).1 j =
      (pixel acc.1 j ^^ (rowLights byte x0 row j && decide ((j % 64 + 64 - x0) % 64 < n))) := by
  induction n with
  | zero => simp
  | succ n ih =>
    rw [List.range_succ, List.foldl_append, List.foldl_cons, List.foldl_nil]
    have ht := blitTarget_eq row hx (show n < 8 by omega)
    rw [pixel_blitBit _ _ (by rw [ht]; omega) hj, ih (by omega), ht]
    by_cases e : j = (x0 + n) % 64 + row * 64
    · have e1 : (j % 64 + 64 - x0) % 64 = n := by omega
      have e2 : j / 64 = row := by omega
      have : n < 8 := by omega
      have e3 : decide (j = (x0 + n) % 64 + row * 64) = true := by simpa using e
      rw [e3]
      simp [rowLights, e1, e2, spriteBit, this]
    · by_cases e2 : j / 64 = row
      · have e1 : (j % 64 + 64 - x0) % 64 ≠ n := by omega
        have : (j % 64 + 64 - x0) % 64 < n + 1 ↔ (j % 64 + 64 - x0) % 64 < n := by omega
        simp [e, this]
      · simp [rowLights, e, e2]

/-- One sprite byte XORs the eight pixels it covers and leaves the rest (R162). -/
theorem pixel_blitRow (byte : Byte) {x0 row j : Nat} (hx : x0 < 64) (hrow : row < 32) (hj : j < 2048)
    (acc : Frame × Bool) : pixel (blitRow byte x0 row acc).1 j = (pixel acc.1 j ^^ rowLights byte x0 row j) := by
  rw [blitRow, pixel_blitBits byte hx hrow hj acc 8 (by omega)]
  congr 1
  cases h : rowLights byte x0 row j
  · rfl
  · simp [rowLights] at h; simp [h]

/-- After the first n bits of a row a collision is an earlier one, or a pixel that was on under a 1 bit (R163). -/
theorem collided_blitBits (byte : Byte) {x0 row : Nat} (hx : x0 < 64) (hrow : row < 32) (acc : Frame × Bool) (n : Nat)
    (hn : n ≤ 8) : ((List.range n).foldl (blitBit byte x0 row) acc).2 = true ↔ (acc.2 = true ∨
      ∃ j, j < 2048 ∧ rowLights byte x0 row j = true ∧ (j % 64 + 64 - x0) % 64 < n ∧ pixel acc.1 j = true) := by
  induction n with
  | zero => simp
  | succ n ih =>
    rw [List.range_succ, List.foldl_append, List.foldl_cons, List.foldl_nil]
    have ht := blitTarget_eq row hx (show n < 8 by omega)
    rw [collided_blitBit, Bool.or_eq_true, ih (by omega), Bool.and_eq_true, ht, pixel_blitBits byte hx hrow (by omega) acc n (by omega)]
    have e1 : (((x0 + n) % 64 + row * 64) % 64 + 64 - x0) % 64 = n := by omega
    have e2 : ((x0 + n) % 64 + row * 64) / 64 = row := by omega
    simp only [e1, Nat.lt_irrefl, decide_false, Bool.and_false, Bool.xor_false]
    constructor
    · rintro ((h | ⟨j, h1, h2, h3, h4⟩) | ⟨h1, h2⟩)
      · exact .inl h
      · exact .inr ⟨j, h1, h2, by omega, h4⟩
      · refine .inr ⟨(x0 + n) % 64 + row * 64, by omega, ?_, by omega, h2⟩
        simp only [rowLights, e1, e2]; simp only [spriteBit] at h1; simp [h1]; omega
    · rintro (h | ⟨j, h1, h2, h3, h4⟩)
      · exact .inl (.inl h)
      · by_cases e : (j % 64 + 64 - x0) % 64 < n
        · exact .inl (.inr ⟨j, h1, h2, e, h4⟩)
        · right
          have e3 : (j % 64 + 64 - x0) % 64 = n := by omega
          have h2' := h2
          simp [rowLights] at h2'
          have : j = (x0 + n) % 64 + row * 64 := by omega
          rw [← this]
          refine ⟨?_, h4⟩
          simp [spriteBit]; rw [e3] at h2'; exact h2'.2

/-- The sprite drawn at (x0, y0) covers FB[j] with a 1 bit (R162). -/
def rowsLight (rows : List Byte) (x0 y0 j : Nat) : Bool :=
  decide (y0 ≤ j / 64 ∧ (j % 64 + 64 - x0) % 64 < 8) &&
    (if h : j / 64 - y0 < rows.length then rows[j / 64 - y0].getLsbD (7 - (j % 64 + 64 - x0) % 64) else false)

/-- A pixel is under the first row of a sprite or under the rest, never under both (R162). -/
theorem rowsLight_cons (b : Byte) (rows : List Byte) (x0 y0 j : Nat) :
    rowsLight (b :: rows) x0 y0 j = (rowLights b x0 y0 j ^^ rowsLight rows x0 (y0 + 1) j) ∧
      ¬(rowLights b x0 y0 j = true ∧ rowsLight rows x0 (y0 + 1) j = true) := by
  by_cases h : j / 64 = y0
  · have h1 : ¬ (y0 + 1 ≤ j / 64) := by omega
    simp [rowsLight, rowLights, h]
  · by_cases h2 : y0 ≤ j / 64
    · have h1 : y0 + 1 ≤ j / 64 := by omega
      have h3 : j / 64 - y0 = (j / 64 - (y0 + 1)) + 1 := by omega
      simp only [rowsLight, rowLights, h, h2, h1, h3]
      simp
    · have h1 : ¬ (y0 + 1 ≤ j / 64) := by omega
      simp [rowsLight, rowLights, h, h1, h2]

/-- All the blit can do, for a sprite that ends above the bottom edge: it XORs the pixels under its 1 bits, and reports
a collision when one of them was on before the blit (R162, R163). -/
theorem blitRows_spec (rows : List Byte) {x0 : Nat} (hx : x0 < 64) (y0 : Nat) (hy : y0 + rows.length ≤ 32)
    (acc : Frame × Bool) :
    (∀ j, j < 2048 → pixel (blitRows rows x0 y0 acc).1 j = (pixel acc.1 j ^^ rowsLight rows x0 y0 j)) ∧
    ((blitRows rows x0 y0 acc).2 = true ↔
      (acc.2 = true ∨ ∃ j, j < 2048 ∧ rowsLight rows x0 y0 j = true ∧ pixel acc.1 j = true)) := by
  induction rows generalizing y0 acc with
  | nil => constructor <;> simp [blitRows, rowsLight]
  | cons b rows ih =>
    simp only [List.length_cons] at hy
    have hrow : y0 < 32 := by omega
    obtain ⟨i1, i2⟩ := ih (y0 + 1) (by omega) (blitRow b x0 y0 acc)
    constructor
    · intro j hj
      rw [blitRows, i1 j hj, pixel_blitRow _ hx hrow hj, (rowsLight_cons b rows x0 y0 j).1, Bool.xor_assoc]
    · rw [blitRows, i2, show (blitRow b x0 y0 acc).2 = true ↔ _ from collided_blitBits b hx hrow acc 8 (by omega)]
      constructor
      · rintro ((h | ⟨j, h1, h2, h3, h4⟩) | ⟨j, h1, h2, h3⟩)
        · exact .inl h
        · refine .inr ⟨j, h1, ?_, h4⟩
          have := rowsLight_cons b rows x0 y0 j
          rw [this.1, h2]; simp; have := this.2; simp [h2] at this; exact this
        · have := rowsLight_cons b rows x0 y0 j
          have hn : rowLights b x0 y0 j = false := by cases e : rowLights b x0 y0 j <;> simp_all
          rw [pixel_blitRow _ hx hrow h1, hn] at h3
          exact .inr ⟨j, h1, by rw [this.1, hn, h2]; rfl, by simpa using h3⟩
      · rintro (h | ⟨j, h1, h2, h3⟩)
        · exact .inl (.inl h)
        · have := rowsLight_cons b rows x0 y0 j
          rw [this.1] at h2
          cases e : rowLights b x0 y0 j
          · right; refine ⟨j, h1, by simpa [e] using h2, ?_⟩
            rw [pixel_blitRow _ hx hrow h1, e, h3]; rfl
          · left; right; refine ⟨j, h1, e, ?_, h3⟩
            simp [rowLights] at e; omega

end Sys2Proof.Machine
end

