-- ==== Sys2Proof/Laws/Decode.lean ====
section
/-! SUPPORT. The fields of an encoded word (rules R71, R72), and the two bytes of a word (rule R58). -/

namespace Sys2Proof

section Fields
variable (op x y n : BitVec 4) (kk : Byte) (nnn : BitVec 12)

@[simp] theorem fieldOp_encodeNNN : fieldOp (encodeNNN op nnn) = op := by
  apply BitVec.eq_of_getLsbD_eq; intro k hk
  simp only [fieldOp, encodeNNN, BitVec.getLsbD_extractLsb', BitVec.getLsbD_append]
  grind

@[simp] theorem fieldNNN_encodeNNN : fieldNNN (encodeNNN op nnn) = nnn := by
  apply BitVec.eq_of_getLsbD_eq; intro k hk
  simp only [fieldNNN, encodeNNN, BitVec.getLsbD_extractLsb', BitVec.getLsbD_append]
  grind

@[simp] theorem fieldOp_encodeXKK : fieldOp (encodeXKK op x kk) = op := by
  apply BitVec.eq_of_getLsbD_eq; intro k hk
  simp only [fieldOp, encodeXKK, BitVec.getLsbD_extractLsb', BitVec.getLsbD_append]
  grind

@[simp] theorem fieldX_encodeXKK : fieldX (encodeXKK op x kk) = x := by
  apply BitVec.eq_of_getLsbD_eq; intro k hk
  simp only [fieldX, encodeXKK, BitVec.getLsbD_extractLsb', BitVec.getLsbD_append]
  grind

@[simp] theorem fieldKK_encodeXKK : fieldKK (encodeXKK op x kk) = kk := by
  apply BitVec.eq_of_getLsbD_eq; intro k hk
  simp only [fieldKK, encodeXKK, BitVec.getLsbD_extractLsb', BitVec.getLsbD_append]
  grind

@[simp] theorem fieldOp_encodeXYN : fieldOp (encodeXYN op x y n) = op := by
  apply BitVec.eq_of_getLsbD_eq; intro k hk
  simp only [fieldOp, encodeXYN, BitVec.getLsbD_extractLsb', BitVec.getLsbD_append]
  grind

@[simp] theorem fieldX_encodeXYN : fieldX (encodeXYN op x y n) = x := by
  apply BitVec.eq_of_getLsbD_eq; intro k hk
  simp only [fieldX, encodeXYN, BitVec.getLsbD_extractLsb', BitVec.getLsbD_append]
  grind

@[simp] theorem fieldY_encodeXYN : fieldY (encodeXYN op x y n) = y := by
  apply BitVec.eq_of_getLsbD_eq; intro k hk
  simp only [fieldY, encodeXYN, BitVec.getLsbD_extractLsb', BitVec.getLsbD_append]
  grind

@[simp] theorem fieldN_encodeXYN : fieldN (encodeXYN op x y n) = n := by
  apply BitVec.eq_of_getLsbD_eq; intro k hk
  simp only [fieldN, encodeXYN, BitVec.getLsbD_extractLsb', BitVec.getLsbD_append]
  grind

end Fields

/-- A word of layout NNN is its fields (R72). -/
theorem encodeNNN_fields (w : Word) : encodeNNN (fieldOp w) (fieldNNN w) = w := by
  apply BitVec.eq_of_getLsbD_eq; intro k hk
  simp only [encodeNNN, fieldOp, fieldNNN, BitVec.getLsbD_extractLsb', BitVec.getLsbD_append]
  grind

/-- A word of layout XKK is its fields (R72). -/
theorem encodeXKK_fields (w : Word) : encodeXKK (fieldOp w) (fieldX w) (fieldKK w) = w := by
  apply BitVec.eq_of_getLsbD_eq; intro k hk
  simp only [encodeXKK, fieldOp, fieldX, fieldKK, BitVec.getLsbD_extractLsb', BitVec.getLsbD_append]
  grind

/-- A word of layouts XY_ and XYN is its fields (R72). -/
theorem encodeXYN_fields (w : Word) : encodeXYN (fieldOp w) (fieldX w) (fieldY w) (fieldN w) = w := by
  apply BitVec.eq_of_getLsbD_eq; intro k hk
  simp only [encodeXYN, fieldOp, fieldX, fieldY, fieldN, BitVec.getLsbD_extractLsb', BitVec.getLsbD_append]
  grind

/-- A word is its two bytes, high byte first (R58). -/
theorem wordOfBytes_split (w : Word) : wordOfBytes (firstByte w) (secondByte w) = w := by
  apply BitVec.eq_of_getLsbD_eq; intro k hk
  simp only [wordOfBytes, firstByte, secondByte, BitVec.getLsbD_append, BitVec.getLsbD_extractLsb']
  grind

/-- An instruction word as a number: high byte times 256 plus low byte (R58). -/
theorem wordOfBytes_toNat (a b : Byte) : (wordOfBytes a b).toNat = a.toNat * 256 + b.toNat := by
  have h : (wordOfBytes a b).toNat = a.toNat <<< 8 ||| b.toNat := BitVec.toNat_append a b
  rw [h, ← Nat.shiftLeft_add_eq_or_of_lt b.isLt, Nat.shiftLeft_eq]

end Sys2Proof
end

