-- ==== Sys2Proof/Laws/Memory.lean ====
section
/-! SUPPORT. RAM: reads after writes, what a write leaves alone, and that every memory operation keeps the canonical
form. -/

namespace Sys2Proof.Machine

variable (f : Font)

/-- A write leaves every other address alone. -/
theorem Memory.read_write_other (m : Memory) {a a' : Nat} (b : Byte) (h : a' ≠ a) :
    (m.write f a b).read f a' = m.read f a' := by
  induction m with
  | nil => unfold Memory.write; split <;> simp [Memory.read, h.symm]
  | cons c m ih =>
    unfold Memory.write
    split
    · split <;> simp [Memory.read, h.symm]
    · split
      · rename_i e
        split <;> simp [Memory.read, ← e, h.symm]
      · simp only [Memory.read]; split
        · rfl
        · exact ih

/-- An address below every listed one reads as unlisted. -/
theorem Memory.read_of_all_gt (m : Memory) (a : Nat) (h : ∀ d ∈ m, a < d.1) : m.read f a = Memory.unlisted f a := by
  induction m with
  | nil => rfl
  | cons c m ih =>
    have h1 := h c (by simp)
    rw [Memory.read, if_neg (by omega)]
    exact ih fun d hd => h d (by simp [hd])

/-- The canonical form of a list with a first cell. -/
theorem Memory.wf_cons (c : Host.Cell) (m : Memory) :
    Memory.wf f (c :: m) = true ↔
      c.1 < 4096 ∧ c.2 ≠ Memory.unlisted f c.1 ∧ (∀ d ∈ m, c.1 < d.1) ∧ Memory.wf f m = true := by
  simp only [Memory.wf, Bool.and_eq_true, decide_eq_true_eq, bne_iff_ne, ne_eq, List.all_eq_true, and_assoc]

/-- A read after a write to the same address gives the value written. -/
theorem Memory.read_write_same (m : Memory) (a : Nat) (b : Byte) (h : m.wf f = true) : (m.write f a b).read f a = b := by
  induction m with
  | nil => unfold Memory.write; split <;> simp_all [Memory.read]
  | cons c m ih =>
    obtain ⟨-, -, hlt, hm⟩ := (Memory.wf_cons f c m).1 h
    unfold Memory.write
    split
    · rename_i hac
      split
      · rename_i e
        rw [e]
        apply Memory.read_of_all_gt
        intro d hd
        rcases List.mem_cons.1 hd with rfl | hd
        · exact hac
        · exact Nat.lt_trans hac (hlt d hd)
      · simp [Memory.read]
    · split
      · rename_i e
        split
        · rename_i eb
          rw [eb]
          exact Memory.read_of_all_gt f m a fun d hd => e ▸ hlt d hd
        · simp [Memory.read]
      · rename_i hne
        rw [Memory.read, if_neg (fun e => hne e.symm)]
        exact ih hm

/-- The listed addresses after a write are the old ones and the one written. -/
theorem Memory.mem_write (m : Memory) (a : Nat) (b : Byte) {d : Host.Cell} (h : d ∈ m.write f a b) :
    d ∈ m ∨ d = (a, b) := by
  induction m with
  | nil => unfold Memory.write at h; split at h <;> simp_all
  | cons c m ih =>
    unfold Memory.write at h
    split at h
    · split at h
      · exact .inl h
      · rcases List.mem_cons.1 h with rfl | h
        · exact .inr rfl
        · exact .inl h
    · split at h
      · split at h
        · exact .inl (by simp [h])
        · rcases List.mem_cons.1 h with rfl | h
          · exact .inr rfl
          · exact .inl (by simp [h])
      · rcases List.mem_cons.1 h with rfl | h
        · exact .inl (by simp)
        · rcases ih h with h | h
          · exact .inl (by simp [h])
          · exact .inr h

/-- A write inside RAM keeps the canonical form. -/
theorem Memory.write_wf (m : Memory) (a : Nat) (b : Byte) (h : m.wf f = true) (ha : a < 4096) :
    (m.write f a b).wf f = true := by
  induction m with
  | nil => unfold Memory.write; split <;> simp_all [Memory.wf, Config.ramSize]
  | cons c m ih =>
    obtain ⟨hc, hd, hlt, hm⟩ := (Memory.wf_cons f c m).1 h
    unfold Memory.write
    split
    · rename_i hac
      split
      · exact h
      · rename_i hb
        refine (Memory.wf_cons f _ _).2 ⟨ha, hb, ?_, h⟩
        intro d hd'
        rcases List.mem_cons.1 hd' with rfl | hd'
        · exact hac
        · exact Nat.lt_trans hac (hlt d hd')
    · split
      · rename_i e
        split
        · exact hm
        · rename_i hb
          exact (Memory.wf_cons f _ _).2 ⟨ha, hb, fun d hd' => e ▸ hlt d hd', hm⟩
      · refine (Memory.wf_cons f _ _).2 ⟨hc, hd, ?_, ih hm⟩
        intro d hd'
        rcases Memory.mem_write f m a b hd' with hd' | rfl
        · exact hlt d hd'
        · show c.1 < a; omega

/-- A run of writes leaves every address outside it alone. -/
theorem Memory.read_writeAll_outside (bytes : List Byte) (m : Memory) (a a' : Nat)
    (h : a' < a ∨ a + bytes.length ≤ a') : (m.writeAll f a bytes).read f a' = m.read f a' := by
  induction bytes generalizing m a with
  | nil => rfl
  | cons b bs ih =>
    simp only [List.length_cons] at h
    rw [Memory.writeAll, ih _ _ (by omega), Memory.read_write_other f _ _ (by omega)]

/-- A run of writes inside RAM keeps the canonical form. -/
theorem Memory.writeAll_wf (bytes : List Byte) (m : Memory) (a : Nat) (h : m.wf f = true)
    (ha : a + bytes.length ≤ 4096) : (m.writeAll f a bytes).wf f = true := by
  induction bytes generalizing m a with
  | nil => exact h
  | cons b bs ih =>
    simp only [List.length_cons] at ha
    exact ih _ _ (Memory.write_wf f m a b h (by omega)) (by omega)

/-- A run of writes puts byte k at address a + k. -/
theorem Memory.read_writeAll_inside (bytes : List Byte) (m : Memory) (a k : Nat) (h : m.wf f = true)
    (ha : a + bytes.length ≤ 4096) (hk : k < bytes.length) : (m.writeAll f a bytes).read f (a + k) = bytes[k] := by
  induction bytes generalizing m a k with
  | nil => simp at hk
  | cons b bs ih =>
    simp only [List.length_cons] at ha hk
    have hw := Memory.write_wf f m a b h (by omega)
    rw [Memory.writeAll]
    cases k with
    | zero =>
      rw [Memory.read_writeAll_outside f _ _ _ _ (by omega)]
      exact Memory.read_write_same f m a b h
    | succ k =>
      have := ih (m.write f a b) (a + 1) k hw (by omega) (by omega)
      rw [show a + (k + 1) = a + 1 + k by omega]
      simpa using this

/-- A run of writes lists no address outside it that was not listed. -/
theorem Memory.mem_writeAll (bytes : List Byte) (m : Memory) (a : Nat) {d : Host.Cell}
    (h : d ∈ m.writeAll f a bytes) : d ∈ m ∨ (a ≤ d.1 ∧ d.1 < a + bytes.length) := by
  induction bytes generalizing m a with
  | nil => exact .inl h
  | cons b bs ih =>
    simp only [List.length_cons]
    rcases ih _ _ h with h | h
    · rcases Memory.mem_write f m a b h with h | rfl
      · exact .inl h
      · exact .inr ⟨Nat.le_refl _, by simp⟩
    · right; omega

@[simp] theorem Memory.readAll_length (m : Memory) (a n : Nat) : (m.readAll f a n).length = n := by
  induction n generalizing a with
  | zero => rfl
  | succ n ih => simp [Memory.readAll, ih]

theorem Memory.readAll_getElem (m : Memory) (n a k : Nat) (hk : k < (m.readAll f a n).length) :
    (m.readAll f a n)[k] = m.read f (a + k) := by
  induction n generalizing a k with
  | zero => simp [Memory.readAll] at hk
  | succ n ih =>
    cases k with
    | zero => simp [Memory.readAll]
    | succ k =>
      have := ih (a + 1) k (by simpa [Memory.readAll] using hk)
      simp only [Memory.readAll, List.getElem_cons_succ]
      rw [this]; congr 1; omega

/-- isAddressable as the two ranges of R53. -/
theorem isAddressable_iff (a : Nat) :
    isAddressable a = true ↔ (0x200 ≤ a ∧ a < 0xEA0) ∨ (0x050 ≤ a ∧ a < 0x0A0) := by
  simp only [isAddressable, Bool.or_eq_true, decide_eq_true_eq]
  exact Iff.rfl

/-- The span check, address by address (R55). -/
theorem spanAddressable_iff (a n : Nat) :
    spanAddressable a n = true ↔ ∀ k, k < n → isAddressable (a + k) = true := by
  simp [spanAddressable]

/-- A span that passes the check lies inside RAM. -/
theorem spanAddressable_inside {a n : Nat} (h : spanAddressable a n = true) (hn : 0 < n) : a + n ≤ 0xEA0 := by
  have := (isAddressable_iff _).1 ((spanAddressable_iff a n).1 h (n - 1) (by omega))
  omega

/-- MemRead answers exactly when the span passes, with the bytes in address order (R55). -/
theorem State.memRead_eq_some_iff (s : State) (a n : Nat) (bytes : List Byte) :
    s.memRead a n = some bytes ↔ spanAddressable a n = true ∧ bytes = s.mem.readAll s.params.font a n := by
  unfold State.memRead
  split
  · rename_i h; rw [Option.some.injEq]; exact ⟨fun e => ⟨h, e.symm⟩, fun e => e.2.symm⟩
  · rename_i h; exact ⟨fun e => (nomatch e), fun e => absurd e.1 h⟩

theorem State.memRead_eq_none_iff (s : State) (a n : Nat) : s.memRead a n = none ↔ spanAddressable a n = false := by
  unfold State.memRead; split <;> simp_all

/-- MemWrite answers exactly when the span passes, and changes RAM only (R55). -/
theorem State.memWrite_eq_some_iff (s t : State) (a : Nat) (bytes : List Byte) :
    s.memWrite a bytes = some t ↔
      spanAddressable a bytes.length = true ∧ t = s.store a bytes := by
  unfold State.memWrite
  split
  · rename_i h; rw [Option.some.injEq]; exact ⟨fun e => ⟨h, e.symm⟩, fun e => e.2.symm⟩
  · rename_i h; exact ⟨fun e => (nomatch e), fun e => absurd e.1 h⟩

theorem State.memWrite_eq_none_iff (s : State) (a : Nat) (bytes : List Byte) :
    s.memWrite a bytes = none ↔ spanAddressable a bytes.length = false := by
  unfold State.memWrite; split <;> simp_all

/-- A store outside an address leaves it alone. -/
theorem State.read_store_outside (s : State) {a a' : Nat} {bytes : List Byte} (h : a' < a ∨ a + bytes.length ≤ a') :
    (s.store a bytes).read a' = s.read a' := Memory.read_writeAll_outside _ _ _ _ _ h

/-- A store inside RAM puts byte k at address a + k. -/
theorem State.read_store_inside (s : State) {a k : Nat} {bytes : List Byte} (h : s.ramWf = true)
    (ha : a + bytes.length ≤ 4096) (hk : k < bytes.length) : (s.store a bytes).read (a + k) = bytes[k] :=
  Memory.read_writeAll_inside _ _ _ _ _ h ha hk

/-- A store inside RAM keeps the canonical form. -/
theorem State.store_ramWf (s : State) {a : Nat} {bytes : List Byte} (h : s.ramWf = true)
    (ha : a + bytes.length ≤ 4096) : (s.store a bytes).ramWf = true := Memory.writeAll_wf _ _ _ _ h ha

/-- MemWrite keeps the canonical form. -/
theorem State.memWrite_wf {s t : State} {a : Nat} {bytes : List Byte} (h : s.memWrite a bytes = some t)
    (hs : s.ramWf = true) : t.ramWf = true := by
  obtain ⟨ha, rfl⟩ := (State.memWrite_eq_some_iff s t a bytes).1 h
  by_cases hn : 0 < bytes.length
  · exact Memory.writeAll_wf _ _ _ _ hs (by have := spanAddressable_inside ha hn; omega)
  · have : bytes = [] := List.eq_nil_of_length_eq_zero (by omega)
    subst this; exact hs

/-- MemWrite lists only addressable cells that were not listed before. -/
theorem State.memWrite_cells {s t : State} {a : Nat} {bytes : List Byte} (h : s.memWrite a bytes = some t)
    {d : Host.Cell} (hd : d ∈ t.mem) : d ∈ s.mem ∨ isAddressable d.1 = true := by
  obtain ⟨ha, rfl⟩ := (State.memWrite_eq_some_iff s t a bytes).1 h
  rcases Memory.mem_writeAll s.params.font bytes s.mem a hd with h | ⟨h1, h2⟩
  · exact .inl h
  · have := (spanAddressable_iff _ _).1 ha (d.1 - a) (by omega)
    rw [show a + (d.1 - a) = d.1 by omega] at this
    exact .inr this

end Sys2Proof.Machine
end

