-- ==== Sys2Proof/Laws/PerInstr.lean ====
section
/-! SUPPORT. Per instruction: its word stands in its own row of the opcode map (rule R75). -/

namespace Sys2Proof.Laws.EncodesItsRow

/-- The word of an instruction matches the row of R75 that its place names. -/
def Statement (i : Instr) : Prop := ∃ row, opcodeMap[rowIndex i]? = some row ∧ matchesRow (encode i) row = true

section MaskLemmas
/-- The mask 0xF000 keeps the opcode nibble. -/
theorem mask_op (w m : Word) (h : m = encodeNNN (fieldOp w) 0) : matchesRow w (m, 0xF000) = true := by
  subst h; simp only [matchesRow, beq_iff_eq]
  apply BitVec.eq_of_getLsbD_eq; intro k hk
  have e : (0xF000#16 : Word) = encodeNNN 0xF#4 0 := by decide
  show (w &&& 0xF000#16).getLsbD k = _
  have h3 : (15#4 : BitVec 4) = BitVec.allOnes 4 := by decide
  rw [e, BitVec.getLsbD_and, h3]
  simp only [encodeNNN, fieldOp, BitVec.getLsbD_extractLsb', BitVec.getLsbD_append, BitVec.getLsbD_allOnes]
  grind

/-- The mask 0xF00F keeps the opcode nibble and the low nibble. -/
theorem mask_op_n (w m : Word) (h : m = encodeXYN (fieldOp w) 0 0 (fieldN w)) : matchesRow w (m, 0xF00F) = true := by
  subst h; simp only [matchesRow, beq_iff_eq]
  apply BitVec.eq_of_getLsbD_eq; intro k hk
  have e : (0xF00F#16 : Word) = encodeXYN 0xF#4 0 0 0xF#4 := by decide
  show (w &&& 0xF00F#16).getLsbD k = _
  have h3 : (15#4 : BitVec 4) = BitVec.allOnes 4 := by decide
  rw [e, BitVec.getLsbD_and, h3]
  simp only [encodeXYN, fieldOp, fieldN, BitVec.getLsbD_extractLsb', BitVec.getLsbD_append, BitVec.getLsbD_allOnes]
  grind

/-- The mask 0xF0FF keeps the opcode nibble and the low byte. -/
theorem mask_op_kk (w m : Word) (h : m = encodeXKK (fieldOp w) 0 (fieldKK w)) : matchesRow w (m, 0xF0FF) = true := by
  subst h; simp only [matchesRow, beq_iff_eq]
  apply BitVec.eq_of_getLsbD_eq; intro k hk
  have e : (0xF0FF#16 : Word) = encodeXKK 0xF#4 0 0xFF#8 := by decide
  show (w &&& 0xF0FF#16).getLsbD k = _
  have h3 : (15#4 : BitVec 4) = BitVec.allOnes 4 := by decide
  have h4 : (255#8 : BitVec 8) = BitVec.allOnes 8 := by decide
  rw [e, BitVec.getLsbD_and, h3, h4]
  simp only [encodeXKK, fieldOp, fieldKK, BitVec.getLsbD_extractLsb', BitVec.getLsbD_append, BitVec.getLsbD_allOnes]
  grind
end MaskLemmas

theorem cls : Statement (.cls) := ⟨_, rfl, rfl⟩
theorem ret : Statement (.ret) := ⟨_, rfl, rfl⟩
theorem jp (nnn : BitVec 12) : Statement (.jp nnn) := ⟨(0x1000, 0xF000), rfl, mask_op _ _ (by simp [encode]; decide)⟩
theorem call (nnn : BitVec 12) : Statement (.call nnn) := ⟨(0x2000, 0xF000), rfl, mask_op _ _ (by simp [encode]; decide)⟩
theorem seImm (x : Reg) (kk : Byte) : Statement (.seImm x kk) := ⟨(0x3000, 0xF000), rfl, mask_op _ _ (by simp [encode]; decide)⟩
theorem sneImm (x : Reg) (kk : Byte) : Statement (.sneImm x kk) := ⟨(0x4000, 0xF000), rfl, mask_op _ _ (by simp [encode]; decide)⟩
theorem seReg (x y : Reg) : Statement (.seReg x y) := ⟨(0x5000, 0xF00F), rfl, mask_op_n _ _ (by simp [encode]; decide)⟩
theorem ldImm (x : Reg) (kk : Byte) : Statement (.ldImm x kk) := ⟨(0x6000, 0xF000), rfl, mask_op _ _ (by simp [encode]; decide)⟩
theorem addImm (x : Reg) (kk : Byte) : Statement (.addImm x kk) := ⟨(0x7000, 0xF000), rfl, mask_op _ _ (by simp [encode]; decide)⟩
theorem ldReg (x y : Reg) : Statement (.ldReg x y) := ⟨(0x8000, 0xF00F), rfl, mask_op_n _ _ (by simp [encode]; decide)⟩
theorem orReg (x y : Reg) : Statement (.orReg x y) := ⟨(0x8001, 0xF00F), rfl, mask_op_n _ _ (by simp [encode]; decide)⟩
theorem andReg (x y : Reg) : Statement (.andReg x y) := ⟨(0x8002, 0xF00F), rfl, mask_op_n _ _ (by simp [encode]; decide)⟩
theorem xorReg (x y : Reg) : Statement (.xorReg x y) := ⟨(0x8003, 0xF00F), rfl, mask_op_n _ _ (by simp [encode]; decide)⟩
theorem addReg (x y : Reg) : Statement (.addReg x y) := ⟨(0x8004, 0xF00F), rfl, mask_op_n _ _ (by simp [encode]; decide)⟩
theorem subReg (x y : Reg) : Statement (.subReg x y) := ⟨(0x8005, 0xF00F), rfl, mask_op_n _ _ (by simp [encode]; decide)⟩
theorem shrReg (x y : Reg) : Statement (.shrReg x y) := ⟨(0x8006, 0xF00F), rfl, mask_op_n _ _ (by simp [encode]; decide)⟩
theorem subnReg (x y : Reg) : Statement (.subnReg x y) := ⟨(0x8007, 0xF00F), rfl, mask_op_n _ _ (by simp [encode]; decide)⟩
theorem shlReg (x y : Reg) : Statement (.shlReg x y) := ⟨(0x800E, 0xF00F), rfl, mask_op_n _ _ (by simp [encode]; decide)⟩
theorem sneReg (x y : Reg) : Statement (.sneReg x y) := ⟨(0x9000, 0xF00F), rfl, mask_op_n _ _ (by simp [encode]; decide)⟩
theorem ldI (nnn : BitVec 12) : Statement (.ldI nnn) := ⟨(0xA000, 0xF000), rfl, mask_op _ _ (by simp [encode]; decide)⟩
theorem jpV0 (nnn : BitVec 12) : Statement (.jpV0 nnn) := ⟨(0xB000, 0xF000), rfl, mask_op _ _ (by simp [encode]; decide)⟩
theorem rnd (x : Reg) (kk : Byte) : Statement (.rnd x kk) := ⟨(0xC000, 0xF000), rfl, mask_op _ _ (by simp [encode]; decide)⟩
theorem drw (x y : Reg) (n : BitVec 4) : Statement (.drw x y n) := ⟨(0xD000, 0xF000), rfl, mask_op _ _ (by simp [encode]; decide)⟩
theorem skp (x : Reg) : Statement (.skp x) := ⟨(0xE09E, 0xF0FF), rfl, mask_op_kk _ _ (by simp [encode]; decide)⟩
theorem sknp (x : Reg) : Statement (.sknp x) := ⟨(0xE0A1, 0xF0FF), rfl, mask_op_kk _ _ (by simp [encode]; decide)⟩
theorem ldVxDt (x : Reg) : Statement (.ldVxDt x) := ⟨(0xF007, 0xF0FF), rfl, mask_op_kk _ _ (by simp [encode]; decide)⟩
theorem ldVxK (x : Reg) : Statement (.ldVxK x) := ⟨(0xF00A, 0xF0FF), rfl, mask_op_kk _ _ (by simp [encode]; decide)⟩
theorem ldDtVx (x : Reg) : Statement (.ldDtVx x) := ⟨(0xF015, 0xF0FF), rfl, mask_op_kk _ _ (by simp [encode]; decide)⟩
theorem ldStVx (x : Reg) : Statement (.ldStVx x) := ⟨(0xF018, 0xF0FF), rfl, mask_op_kk _ _ (by simp [encode]; decide)⟩
theorem addI (x : Reg) : Statement (.addI x) := ⟨(0xF01E, 0xF0FF), rfl, mask_op_kk _ _ (by simp [encode]; decide)⟩
theorem ldF (x : Reg) : Statement (.ldF x) := ⟨(0xF029, 0xF0FF), rfl, mask_op_kk _ _ (by simp [encode]; decide)⟩
theorem ldB (x : Reg) : Statement (.ldB x) := ⟨(0xF033, 0xF0FF), rfl, mask_op_kk _ _ (by simp [encode]; decide)⟩
theorem storeRegs (x : Reg) : Statement (.storeRegs x) := ⟨(0xF055, 0xF0FF), rfl, mask_op_kk _ _ (by simp [encode]; decide)⟩
theorem loadRegs (x : Reg) : Statement (.loadRegs x) := ⟨(0xF065, 0xF0FF), rfl, mask_op_kk _ _ (by simp [encode]; decide)⟩

end Sys2Proof.Laws.EncodesItsRow
end

