-- ==== Sys2Proof/Laws/Registers.lean ====
section
/-! SUPPORT. What reading and writing the general registers, the result with its flag, the call stack and the host's
key oracle can do. -/

namespace Sys2Proof.Machine

variable (s : State)

/-- A register reads as the last value written to it, and a write leaves the others alone (R20). -/
theorem State.getV_setV (x r : Reg) (b : Byte) : (s.setV x b).getV r = if r = x then b else s.getV r := by
  have h : x.toNat = r.toNat ↔ r = x := by rw [BitVec.toNat_inj]; exact eq_comm
  simp only [State.getV, State.setV, Vector.getElem_set, h]

@[simp] theorem State.getV_setV_self (x : Reg) (b : Byte) : (s.setV x b).getV x = b := by simp [State.getV_setV]

theorem State.getV_setV_other {x r : Reg} (b : Byte) (h : r ≠ x) : (s.setV x b).getV r = s.getV r := by
  simp [State.getV_setV, h]

/-- Two states with the same registers agree on V as a whole. -/
theorem vector_ext_getV {s t : State} (h : ∀ r, s.getV r = t.getV r) : s.v = t.v := by
  apply Vector.ext
  intro k hk
  have := h (BitVec.ofNat 4 k)
  simpa [State.getV, Nat.mod_eq_of_lt hk] using this

/-- Result first, flag second: VF holds the flag, whatever X is (R121). -/
@[simp] theorem State.setResultFlag_vf (x : Reg) (a f : Byte) : (s.setResultFlag x a f).getV vf = f := by
  simp [State.setResultFlag]

theorem State.setResultFlag_getV (x r : Reg) (a f : Byte) :
    (s.setResultFlag x a f).getV r = if r = vf then f else if r = x then a else s.getV r := by
  simp only [State.setResultFlag, State.getV_setV]

/-- setResultFlag writes registers only. -/
theorem State.setResultFlag_eq (x : Reg) (a f : Byte) :
    s.setResultFlag x a f = { s with v := (s.setResultFlag x a f).v } := rfl

/-- Loading a run of registers changes registers only (R145). -/
theorem State.setVsFrom_eq (bytes : List Byte) (k : Nat) (s : State) :
    State.setVsFrom k bytes s = { s with v := (State.setVsFrom k bytes s).v } := by
  induction bytes generalizing k s with
  | nil => rfl
  | cons b bs ih => rw [State.setVsFrom, ih]; rfl

/-- Registers k..k+n-1 hold the n loaded bytes, the others are as before (R145). -/
theorem State.setVsFrom_getV (bytes : List Byte) (k : Nat) (s : State) (h : k + bytes.length ≤ 16) (r : Reg) :
    (State.setVsFrom k bytes s).getV r =
      if hr : k ≤ r.toNat ∧ r.toNat < k + bytes.length then bytes[r.toNat - k]'(by omega) else s.getV r := by
  induction bytes generalizing k s with
  | nil => simp [State.setVsFrom]
  | cons b bs ih =>
    simp only [List.length_cons] at h ⊢
    rw [State.setVsFrom, ih (k + 1) _ (by omega)]
    have hk : r = BitVec.ofNat 4 k ↔ r.toNat = k := by
      constructor
      · rintro rfl; simp [Nat.mod_eq_of_lt (by omega : k < 16)]
      · rintro rfl; simp
    by_cases h1 : k + 1 ≤ r.toNat ∧ r.toNat < k + 1 + bs.length
    · have h2 : k ≤ r.toNat ∧ r.toNat < k + (bs.length + 1) := by omega
      rw [dif_pos h1, dif_pos h2]
      rw [List.getElem_cons, dif_neg (by omega)]
      congr 1
    · rw [dif_neg h1, State.getV_setV]
      by_cases h3 : r.toNat = k
      · rw [if_pos (hk.2 h3), dif_pos (by omega), List.getElem_cons, dif_pos (by omega)]
      · rw [if_neg (fun e => h3 (hk.1 e)), dif_neg (by omega)]

/-- A push saves PC in the slot at SP and raises SP, and nothing else (R101). -/
theorem State.pushReturn_some (h : s.sp.val < 16) :
    s.pushReturn = some { s with stack := s.stack.set s.sp.val s.pc h, sp := ⟨s.sp.val + 1, by omega⟩ } := by
  simp [State.pushReturn, h]

/-- A full stack refuses the push (R101). -/
theorem State.pushReturn_none (h : s.sp.val = 16) : s.pushReturn = none := by simp [State.pushReturn, h]

/-- A push fails exactly on a full stack. -/
theorem State.pushReturn_eq_none_iff : s.pushReturn = none ↔ s.sp.val = 16 := by
  have := s.sp.isLt
  by_cases h : s.sp.val < 16
  · simp [State.pushReturn_some s h]; omega
  · simp [State.pushReturn_none s (by omega)]; omega

/-- What a push that succeeds has done (R101). -/
theorem State.pushReturn_eq_some {t : State} (e : s.pushReturn = some t) : ∃ h : s.sp.val < 16,
    t = { s with stack := s.stack.set s.sp.val s.pc h, sp := ⟨s.sp.val + 1, by omega⟩ } := by
  by_cases h : s.sp.val < 16
  · rw [State.pushReturn_some s h] at e; cases e; exact ⟨h, rfl⟩
  · have := s.sp.isLt
    rw [State.pushReturn_none s (by omega)] at e; cases e

/-- A pop from a live stack (R102). -/
theorem State.popReturn_pos (h : 0 < s.sp.val) :
    s.popReturn = { s with sp := ⟨s.sp.val - 1, by omega⟩, pc := s.stack[s.sp.val - 1]'(by omega) } := by
  simp [State.popReturn, h]

/-- A pop from an empty stack does nothing (R102). -/
theorem State.popReturn_zero (h : s.sp.val = 0) : s.popReturn = s := by simp [State.popReturn, h]

/-- The list of held keys holds exactly the keys that are down (R11). -/
theorem State.mem_keysDown (c : Key) : c ∈ s.keysDown ↔ s.isKeyDown c = true := by
  simp only [State.keysDown, List.mem_filter, List.mem_map, List.mem_range]
  constructor
  · exact fun h => h.2
  · exact fun h => ⟨⟨c.toNat, c.isLt, by simp⟩, h⟩

/-- What firstKeyDown answers is a key that is down (R182). -/
theorem State.firstKeyDown_isKeyDown {k : Key} (h : s.firstKeyDown = some k) : s.isKeyDown k = true := by
  rw [← State.mem_keysDown]
  unfold State.firstKeyDown at h
  split at h
  · cases h
  · rename_i e; cases h; simp [e]
  · rename_i a b ks e
    rw [e]
    simp only [Option.some.injEq] at h
    subst h
    have hl : Config.keyPick s.keyPicks % (ks.length + 2) < (a :: b :: ks).length := by
      simp only [List.length_cons]; exact Nat.mod_lt _ (by omega)
    rw [List.getD_eq_getElem _ _ hl]
    exact List.getElem_mem hl

/-- firstKeyDown answers none exactly when KEYS = 0 (R11). -/
theorem State.firstKeyDown_none_iff : s.firstKeyDown = none ↔ s.keys = 0#16 := by
  have h1 : s.firstKeyDown = none ↔ s.keysDown = [] := by
    unfold State.firstKeyDown; split <;> simp_all
  rw [h1, List.eq_nil_iff_forall_not_mem]
  constructor
  · intro h
    apply BitVec.eq_of_getLsbD_eq
    intro j hj
    have := h (BitVec.ofNat 4 j)
    rw [State.mem_keysDown] at this
    simpa [State.isKeyDown, Nat.mod_eq_of_lt hj] using this
  · intro h c
    rw [State.mem_keysDown]
    simp [State.isKeyDown, h]

end Sys2Proof.Machine
end

