-- ==== Sys2Proof/Laws/Step.lean ====
section
/-! SUPPORT. What one move of the total order is, move by move (rule R7), and what a raise is (rule R211). -/

namespace Sys2Proof.Machine

/-- Every agent moves in every round (R7, D16). -/
theorem tickOf_mem_roundMoves (a : Config.Agent) (turns : List Config.Turn) : tickOf a ∈ roundMoves turns := by
  by_cases h : .agent a ∈ turns
  · exact List.mem_append_left _ (List.mem_map.2 ⟨_, h, rfl⟩)
  · refine List.mem_append_right _ (List.mem_map_of_mem (List.mem_filter.2 ⟨by cases a <;> simp, ?_⟩))
    simpa using h

/-- A round lists moves of the agents and key changes only: no reset, no load, no shutdown. -/
theorem mem_roundMoves {m : Move} {turns : List Config.Turn} (h : m ∈ roundMoves turns) :
    (∃ a, m = tickOf a) ∨ ∃ k, m = .keys k := by
  rcases List.mem_append.1 h with h | h
  · obtain ⟨t, -, rfl⟩ := List.mem_map.1 h
    cases t with
    | agent a => exact .inl ⟨a, rfl⟩
    | keys k => exact .inr ⟨k, rfl⟩
  · obtain ⟨a, -, rfl⟩ := List.mem_map.1 h
    exact .inl ⟨a, rfl⟩

/-- A round is never empty. -/
theorem roundMoves_ne_nil (turns : List Config.Turn) : roundMoves turns ≠ [] :=
  List.ne_nil_of_mem (tickOf_mem_roundMoves .cpu turns)

/-- With a move listed, that move. -/
theorem nextMove_of_cons {s : State} {m : Move} {rest : List Move} (h : s.schedule = m :: rest) :
    nextMove s = (m, { s with schedule := rest }) := by
  simp [nextMove, State.popMove, h]

/-- With no move listed, the first move of the next round. -/
theorem nextMove_of_nil {s : State} (h : s.schedule = []) : nextMove s = nextMove s.drawRound := by
  have := roundMoves_ne_nil (Config.round s.rounds)
  simp [nextMove, h, this]

/-- With a move listed, a step is that move. -/
theorem step_of_cons {s : State} {m : Move} {rest : List Move} (h : s.schedule = m :: rest) :
    step s = moveStep m { s with schedule := rest } := by
  rw [step, nextMove_of_cons h]

/-- With no move listed, a step is the step with the next round listed. -/
theorem step_of_nil {s : State} (h : s.schedule = []) : step s = step s.drawRound := by
  rw [step, nextMove_of_nil h, ← step]

/-- All a step can be: a listed move, or the first move of the next round. -/
theorem step_cases (s : State) : ∃ u m rest, u.schedule = m :: rest ∧ step s = moveStep m { u with schedule := rest } ∧
    (u = s ∨ (s.schedule = [] ∧ u = s.drawRound)) := by
  cases h : s.schedule with
  | cons m rest => exact ⟨s, m, rest, h, step_of_cons h, .inl rfl⟩
  | nil =>
    obtain ⟨m, rest, e⟩ := List.exists_cons_of_ne_nil (roundMoves_ne_nil (Config.round s.rounds))
    exact ⟨s.drawRound, m, rest, e, by rw [step_of_nil h, step_of_cons e], .inr ⟨rfl, rfl⟩⟩

/-- A raise is the halt with the record of R210, and nothing else. -/
@[simp] theorem raise_eq (c : Cause) (i : Instr) (s : State) :
    raise c i s = .next { s with run := .halted ⟨c, some (encode i), some (s.pc - 2#16)⟩ } := rfl

/-- A halted state is not running and not waiting. -/
theorem State.isHalted_iff (s : State) : s.isHalted = true ↔ ∃ r, s.run = .halted r := by
  unfold State.isHalted; split <;> simp_all

/-- A skip changes PC only (R108). -/
theorem skipIf_eq (c : Bool) (s : State) : skipIf c s = { s with pc := if c then s.pc + 2#16 else s.pc } := by
  cases c <;> rfl

/-- The CPU's step in the Running state, when the fetch check and the decoder pass (R230). -/
theorem runStep_of_instr {s : State} {i : Instr} (hf : fetchable s.pc = true)
    (hd : decode s.fetchWord = .instr i) : runStep s = exec i s.advancePc := by
  simp [runStep, hf, hd]

/-- The fetch check as the bounds of R54. -/
theorem fetchable_iff (pc : Word) : fetchable pc = true ↔ 0x200 ≤ pc.toNat ∧ pc.toNat + 1 < 0xEA0 := by
  simp [fetchable]

/-- An image fits exactly when it has at most 3232 bytes (R245). -/
theorem imageFits_iff (image : List Byte) : imageFits image = true ↔ image.length ≤ 3232 := by simp [imageFits]

/-- The fetched word as a number (R58). -/
theorem State.fetchWord_eq (s : State) :
    s.fetchWord = BitVec.ofNat 16 ((s.read s.pc.toNat).toNat * 256 + (s.read (s.pc.toNat + 1)).toNat) := by
  apply BitVec.eq_of_toNat_eq
  have h1 := (s.read s.pc.toNat).isLt
  have h2 := (s.read (s.pc.toNat + 1)).isLt
  have e : s.fetchWord.toNat
      = (s.read s.pc.toNat).toNat * 256 + (s.read (s.pc.toNat + 1)).toNat := by
    exact wordOfBytes_toNat _ _
  rw [e, BitVec.toNat_ofNat, Nat.mod_eq_of_lt (by omega)]

end Sys2Proof.Machine
end

