-- ==== Sys2Proof/Tests/Slice0.lean ====
section
/-! SUPPORT. The model's own tests. Every expected value is a vector of 95_test_vectors.md (named in the comment above
the test) or a word written out from 30_encoding.md; the witnesses show that each statement's hypotheses can be met. -/

namespace Sys2Proof.Tests

open Sys2Proof Sys2Proof.Machine Sys2Proof.Safety

/-! ## Well-formedness -/

-- E5, E6: an image of 3233 bytes is refused, one of 3232 bytes fits.
theorem test_image_too_long : imageFits (List.replicate 3233 0x00#8) = false := by
  rw [imageFits, List.length_replicate]; decide
theorem test_image_fits : imageFits (List.replicate 3232 0x00#8) = true := by
  rw [imageFits, List.length_replicate]; decide
-- R31: 80 font bytes; a table of 79 is ill formed.
theorem test_font_too_short : fontFits (Config.fontBytes.drop 1) = false := by decide
theorem test_font_fits : fontFits Config.fontBytes = true := by decide
-- R73: every operand value of a defined pattern is legal.
theorem test_wellFormed_operands : Instr.wellFormed (.drw 0xF 0xF 0xF) = true := by decide

/-! ## Decoding: words written out from the patterns of 30_encoding.md, one per row -/

theorem test_decode_family0 : decode 0b0000000011100000#16 = .instr .cls ∧
    decode 0b0000000011101110#16 = .instr .ret := by decide
theorem test_decode_nnn : decode 0b0001101010111100#16 = .instr (.jp 0xABC) ∧
    decode 0b0010001100000001#16 = .instr (.call 0x301) ∧ decode 0b1010000100100011#16 = .instr (.ldI 0x123) ∧
    decode 0b1011010100000110#16 = .instr (.jpV0 0x506) := by decide
theorem test_decode_xkk : decode 0b0011000100110100#16 = .instr (.seImm 1 0x34) ∧
    decode 0b0100001010000001#16 = .instr (.sneImm 2 0x81) ∧ decode 0b0110101001111111#16 = .instr (.ldImm 0xA 0x7F) ∧
    decode 0b0111001100000001#16 = .instr (.addImm 3 0x01) ∧
    decode 0b1100000100001111#16 = .instr (.rnd 1 0x0F) := by decide
theorem test_decode_xy : decode 0b0101000100100000#16 = .instr (.seReg 1 2) ∧
    decode 0b1001000100100000#16 = .instr (.sneReg 1 2) ∧ decode 0b1000000100100000#16 = .instr (.ldReg 1 2) ∧
    decode 0b1000000100100001#16 = .instr (.orReg 1 2) ∧ decode 0b1000000100100010#16 = .instr (.andReg 1 2) ∧
    decode 0b1000000100100011#16 = .instr (.xorReg 1 2) := by decide
theorem test_decode_xy_flags : decode 0b1000000100100100#16 = .instr (.addReg 1 2) ∧
    decode 0b1000000100100101#16 = .instr (.subReg 1 2) ∧ decode 0b1000000100100110#16 = .instr (.shrReg 1 2) ∧
    decode 0b1000000100100111#16 = .instr (.subnReg 1 2) ∧ decode 0b1000000100101110#16 = .instr (.shlReg 1 2) ∧
    decode 0b1101000100100101#16 = .instr (.drw 1 2 5) := by decide
theorem test_decode_keys : decode 0b1110000110011110#16 = .instr (.skp 1) ∧
    decode 0b1110000110100001#16 = .instr (.sknp 1) ∧ decode 0b1111001100001010#16 = .instr (.ldVxK 3) := by decide
theorem test_decode_f : decode 0b1111010000000111#16 = .instr (.ldVxDt 4) ∧
    decode 0b1111000000010101#16 = .instr (.ldDtVx 0) ∧ decode 0b1111001000011000#16 = .instr (.ldStVx 2) ∧
    decode 0b1111000100011110#16 = .instr (.addI 1) ∧ decode 0b1111001000101001#16 = .instr (.ldF 2) ∧
    decode 0b1111000000110011#16 = .instr (.ldB 0) ∧ decode 0b1111001001010101#16 = .instr (.storeRegs 2) ∧
    decode 0b1111001001100101#16 = .instr (.loadRegs 2) := by decide
-- E1, E2, E3, CF23, CF27, A40, K6, K17: illegal words.
theorem test_decode_illegal : ([0x0000#16, 0x00E1#16, 0x00EF#16, 0x01E0#16, 0x0123#16, 0x0FFF#16, 0xFFFF#16,
    0x5121#16, 0x9121#16].all fun w => decode w == .unknownInstruction w) = true := by decide
theorem test_decode_illegal_subop : ([0x8128#16, 0x8129#16, 0x812A#16, 0x812B#16, 0x812C#16, 0x812D#16, 0x812F#16,
    0xE19F#16, 0xF100#16].all fun w => decode w == .unknownInstruction w) = true := by decide
-- The host's question, and E4: bytes 0x12, 0x34 are the word 0x1234.
theorem test_decodeTableWord : decodeTableWord 16 0x8014 = some (.addReg 0 1) ∧ decodeTableWord 16 0x8018 = none := by
  decide
theorem test_bigEndian : decodeBytes 0x12 0x34 = .instr (.jp 0x234) := by decide

/-! ## One step of each instruction, through fetch and decode -/

/-- The outcome of the step that fetches w at 0x200, from the reset state as changed by f. -/
def run (w : Nat) (f : State → State) : Result := step ((f State.reset).withFetchWord 16 w)

/-- The step answers a next state of which p holds. -/
def next (o : Result) (p : State → Bool) : Bool :=
  match o with
  | .next t => p t
  | .fault _ | .refused _ => false

/-- The step halts with cause c, the word w and PC0 = 0x200, PC being 0x202. -/
def traps (o : Result) (c : Cause) (w : Word) : Bool :=
  next o fun t => t.run == .halted ⟨c, some w, some 0x200#16⟩ && t.pc == 0x202#16

/-- Pixels on, as places in FB. -/
def fbOn (t : State) : List Nat := (List.range 2048).filter (pixel t.fb)

/-- RAM[a] <- b. -/
def poke (a : Nat) (b : Byte) (s : State) : State := s.store a [b]

-- CF1, CF3.
theorem test_jp : next (run 0x1ABC id) (fun t => t.pc == 0xABC) = true := by decide
theorem test_jp_odd : next (run 0x1201 id) (fun t => t.pc == 0x201) = true := by decide
-- CF8, CF9.
theorem test_call : next (run 0x2300 id) (fun t => t.stack[0] == 0x202 && t.sp == 1 && t.pc == 0x300) = true := by
  decide
theorem test_call_overflow : traps (run 0x2300 fun s => { s with sp := 16 }) .stackOverflow 0x2300 = true := by decide
-- CF11 (at 0x200), CF12.
theorem test_ret : next (run 0x00EE fun s => { s with sp := 1, stack := s.stack.set 0 0x0344 })
    (fun t => t.pc == 0x344 && t.sp == 0 && t.stack[0] == 0x344) = true := by decide
theorem test_ret_empty : next (run 0x00EE id) (fun t => t.pc == 0x202 && t.sp == 0 && t.run == .running) = true := by
  decide
-- CF14, CF15.
theorem test_jpV0 : next (run 0xBFFF (·.setV 0 0xFF)) (fun t => t.pc == 0x10FE) = true := by decide
theorem test_jpV0_ignores_x : next (run 0xB500 (·.setV 5 9)) (fun t => t.pc == 0x500) = true := by decide
-- CF16, CF17; CF18, CF19.
theorem test_seImm : next (run 0x3133 (·.setV 1 0x33)) (fun t => t.pc == 0x204) = true ∧
    next (run 0x3134 (·.setV 1 0x33)) (fun t => t.pc == 0x202) = true := by decide
theorem test_sneImm : next (run 0x4133 (·.setV 1 0x33)) (fun t => t.pc == 0x202) = true ∧
    next (run 0x4134 (·.setV 1 0x33)) (fun t => t.pc == 0x204) = true := by decide
-- CF20, CF21; CF24, CF25.
theorem test_seReg : next (run 0x5120 fun s => (s.setV 1 7).setV 2 7) (fun t => t.pc == 0x204) = true ∧
    next (run 0x5120 fun s => (s.setV 1 7).setV 2 8) (fun t => t.pc == 0x202) = true := by decide
theorem test_sneReg : next (run 0x9120 fun s => (s.setV 1 7).setV 2 8) (fun t => t.pc == 0x204) = true ∧
    next (run 0x9120 fun s => (s.setV 1 7).setV 2 7) (fun t => t.pc == 0x202) = true := by decide
-- A1, A2.
theorem test_ldImm : next (run 0x6A7F id) (fun t => t.getV 0xA == 0x7F && t.pc == 0x202) = true := by decide
theorem test_ldImm_vf : next (run 0x6F00 (·.setV vf 1)) (fun t => t.getV vf == 0) = true := by decide
-- A3, A5.
theorem test_addImm_wraps : next (run 0x7301 (·.setV 3 0xFF)) (fun t => t.getV 3 == 0 && t.getV vf == 0) = true := by
  decide
theorem test_addImm_vf : next (run 0x7F01 (·.setV vf 0xFF)) (fun t => t.getV vf == 0) = true := by decide
-- A6.
theorem test_ldReg : next (run 0x8120 (·.setV 2 0x5A)) (fun t => t.getV 1 == 0x5A) = true := by decide
-- A11, A8, A9.
theorem test_orReg : next (run 0x8121 fun s => ((s.setV 1 0xF0).setV 2 0x0F).setV vf 0x77)
    (fun t => t.getV 1 == 0xFF && t.getV vf == 0x77) = true := by decide
theorem test_andReg : next (run 0x8122 fun s => (s.setV 1 0xF0).setV 2 0x3C) (fun t => t.getV 1 == 0x30) = true := by
  decide
theorem test_xorReg : next (run 0x8123 fun s => (s.setV 1 0xF0).setV 2 0x3C) (fun t => t.getV 1 == 0xCC) = true := by
  decide
-- A12, A17.
theorem test_addReg : next (run 0x8014 fun s => (s.setV 0 0xFF).setV 1 1)
    (fun t => t.getV 0 == 0 && t.getV vf == 1) = true := by decide
theorem test_addReg_vf_operand : next (run 0x80F4 fun s => (s.setV 0 5).setV vf 0xFF)
    (fun t => t.getV 0 == 4 && t.getV vf == 1) = true := by decide
-- A20, A22.
theorem test_subReg_equal : next (run 0x8015 fun s => (s.setV 0 7).setV 1 7)
    (fun t => t.getV 0 == 0 && t.getV vf == 0) = true := by decide
theorem test_subReg_vf : next (run 0x8F15 fun s => (s.setV vf 9).setV 1 4) (fun t => t.getV vf == 1) = true := by
  decide
-- A24, A28.
theorem test_shrReg : next (run 0x8126 fun s => (s.setV 1 0xFF).setV 2 5)
    (fun t => t.getV 1 == 2 && t.getV vf == 1) = true := by decide
theorem test_shrReg_vf_source : next (run 0x81F6 (·.setV vf 3)) (fun t => t.getV 1 == 1 && t.getV vf == 1) = true := by
  decide
-- A29, A30.
theorem test_subnReg : next (run 0x8017 fun s => (s.setV 0 3).setV 1 5)
    (fun t => t.getV 0 == 2 && t.getV vf == 1) = true := by decide
theorem test_subnReg_borrow : next (run 0x8017 fun s => (s.setV 0 5).setV 1 3)
    (fun t => t.getV 0 == 0xFE && t.getV vf == 0) = true := by decide
-- A32, A35.
theorem test_shlReg : next (run 0x812E (·.setV 2 0x81)) (fun t => t.getV 1 == 2 && t.getV vf == 0x80) = true := by
  decide
theorem test_shlReg_vf : next (run 0x8F2E (·.setV 2 0x81)) (fun t => t.getV vf == 0x80) = true := by decide
-- A38, for whatever byte the source answers; A39.
theorem test_rnd_mask_zero : exec (.rnd 1 0x00) State.reset = .next (State.reset.drawn.setV 1 0) := by
  simp [exec, execRnd]
theorem test_rnd_mask_full : exec (.rnd 1 0xFF) State.reset =
    .next (State.reset.drawn.setV 1 (Config.nextByte 0)) := by
  have h : Config.nextByte 0 &&& 0xFF#8 = Config.nextByte 0 := BitVec.and_allOnes
  exact congrArg (fun b => Host.Outcome.next (State.reset.drawn.setV 1 b)) h
-- M1.
theorem test_ldI : next (run 0xA123 id) (fun t => t.i == 0x123) = true := by decide
-- M3, M4.
theorem test_addI : next (run 0xF11E fun s => (s.setI 0x0FFF).setV 1 1)
    (fun t => t.i == 0x1000 && t.getV vf == 0) = true := by decide
theorem test_addI_wraps : next (run 0xF11E fun s => (s.setI 0xFFFF).setV 1 2) (fun t => t.i == 1) = true := by decide
-- M7, M8.
theorem test_ldF : next (run 0xF229 (·.setV 2 0x0F)) (fun t => t.i == 0x9B) = true := by decide
theorem test_ldF_invalid : traps (run 0xF229 (·.setV 2 0x10)) .invalidDigit 0xF229 = true := by decide
-- M9 with M14's address, M18.
theorem test_ldB : next (run 0xF033 fun s => (s.setV 0 0xFF).setI 0xE9D) (fun t => t.read 0xE9D == 2 &&
    t.read 0xE9E == 5 && t.read 0xE9F == 5 && t.i == 0xE9D && t.ramWf) = true := by decide
theorem test_ldB_violation :
    traps (run 0xF033 (·.setI 0x09E)) .memoryProtectionViolation 0xF033 = true := by decide
-- M20, M23.
theorem test_storeRegs : next (run 0xF255 fun s => (((s.setV 0 1).setV 1 2).setV 2 3).setI 0x400)
    (fun t => t.read 0x400 == 1 && t.read 0x401 == 2 && t.read 0x402 == 3 && t.read 0x403 == 0 &&
      t.i == 0x400) = true := by decide
theorem test_storeRegs_violation :
    traps (run 0xFF55 (·.setI 0xE91)) .memoryProtectionViolation 0xFF55 = true := by decide
-- M25, M27.
theorem test_loadRegs_font : next (run 0xF465 (·.setI 0x050)) (fun t => t.getV 0 == 0xF0 && t.getV 1 == 0x90 &&
    t.getV 3 == 0x90 && t.getV 4 == 0xF0 && t.getV 5 == 0 && t.i == 0x50) = true := by decide
theorem test_loadRegs_violation :
    traps (run 0xF065 (·.setI 0x1000)) .memoryProtectionViolation 0xF065 = true := by decide
-- D1.
theorem test_cls : next (run 0x00E0 fun s => (s.setFb (flipPixel s.fb 5)).setV vf 9)
    (fun t => t.fb == blankFrame && t.getV vf == 9) = true := by decide +kernel
-- D2, D5.
theorem test_drw : next (run 0xD011 fun s => poke 0x300 0xF0 (((s.setI 0x300).setV 0 62).setV 1 30))
      (fun t => fbOn t == [1920, 1921, 1982, 1983] && t.getV vf == 0) = true ∧
    next (run 0xD011 fun s => poke 0x300 0x80 ((s.setI 0x300).setFb (flipPixel s.fb 0)))
      (fun t => fbOn t == [] && t.getV vf == 1) = true := by decide +kernel
-- D14, D15.
theorem test_drw_edges : traps (run 0xD012 fun s => (s.setI 0xE9F).setV 1 31)
      .memoryProtectionViolation 0xD012 = true ∧
    next (run 0xDF11 fun s => poke 0x300 0x80 ((s.setI 0x300).setV vf 10))
      (fun t => fbOn t == [10] && t.getV vf == 0) = true := by decide +kernel
-- K1, K5; K3, K4.
theorem test_skp : next (run 0xE19E fun s => { s.setV 1 5 with keys := 0x0020 }) (fun t => t.pc == 0x204) = true := by
  decide
theorem test_skp_invalid : traps (run 0xE19E (·.setV 1 0x10)) .invalidKey 0xE19E = true := by decide
theorem test_sknp : next (run 0xE1A1 (·.setV 1 5)) (fun t => t.pc == 0x204) = true := by decide
theorem test_sknp_down : next (run 0xE1A1 fun s => { s.setV 1 5 with keys := 0x0020 })
    (fun t => t.pc == 0x202) = true := by decide
-- K7, K9.
theorem test_ldVxK_waits : next (run 0xF30A id) (fun t => t.run == .waitKey 3 && t.pc == 0x202) = true := by decide
theorem test_ldVxK_held : next (run 0xF30A fun s => { s with keys := 0x0010 })
    (fun t => t.getV 3 == 4 && t.run == .running) = true := by decide
-- K12, K13, K14, K15.
theorem test_ldVxDt : next (run 0xF407 fun s => { s with dt := 0x2A }) (fun t => t.getV 4 == 0x2A && t.dt == 0x2A) = true := by
  decide
theorem test_ldDtVx : next (run 0xF015 (·.setV 0 5)) (fun t => t.dt == 5 && t.dtRunning) = true := by decide
theorem test_ldDtVx_zero : next (run 0xF015 fun s => { s with dt := 9 }) (fun t => t.dt == 0 && !t.dtRunning) = true := by
  decide
theorem test_ldStVx : next (run 0xF218 (·.setV 2 0x3C)) (fun t => t.st == 0x3C && t.soundOn) = true := by decide

/-! ## The other moves, fetch and decode failures -/

-- K8: the wait ends with the key that went down.
theorem test_waitStep : next (step { State.reset with run := .waitKey 3, keys := 0x0800, schedule := [.instrTick] })
    (fun t => t.getV 3 == 0xB && t.run == .running && t.pc == 0x200) = true := by decide
-- K16.
theorem test_dtTick : next (step { State.reset with dt := 1, schedule := [.dtTick] })
    (fun t => t.dt == 0 && !t.dtRunning) = true := by decide
-- CF5.
theorem test_fetchOutOfBounds : next (step { State.reset with pc := 0xE9F, schedule := [.instrTick] }) (fun t => t == { State.reset with
    pc := 0xE9F, loadOpen := false, run := .halted ⟨.fetchOutOfBounds, none, some 0xE9F⟩ }) = true := by decide
-- E7: an empty image, or none at all, and the first step of the CPU: log 20.
theorem test_nothing_loaded : next (step { State.reset with schedule := [.instrTick] }) (fun t => t == { State.reset with
    pc := 0x202, loadOpen := false, run := .halted ⟨.unknownInstruction, some 0, some 0x200⟩ }) = true := by decide
-- E8: an image of the one byte 60.
theorem test_load_one_byte : next (step { State.reset with schedule := [.load [0x60]] })
    (fun t => t.fetchWord == 0x6000 && t.ramWf) = true := by decide

-- R7, D16: every agent moves in every round, after the round's own turns.
theorem test_roundMoves : roundMoves [.keys 1, .agent .dtDriver] = [.keys 1, .dtTick, .instrTick, .stTick] := by decide
-- R5, R31: with another FONT its bytes are the ones preloaded.
theorem test_resetWith_font : (State.resetWith ⟨Config.font.set 0 0xAB, 700⟩).read 0x050 = 0xAB#8 := by decide

/-! ## Witnesses: the hypotheses of each statement are met together -/

/-- A plain state for the witnesses: the next instruction was fetched at 0x200. -/
def base : State := { State.reset with pc := 0x202#16, loadOpen := false }

/-- base with I = a. -/
def atI (a : Word) : State := base.setI a

/-- The word 0x0000 matches no row (E1). -/
theorem zero_matches_none : ∀ row ∈ opcodeMap, 0x0000#16 &&& row.2 ≠ row.1 := by
  have h : (opcodeMap.all fun r => !(0x0000#16 &&& r.2 == r.1)) = true := by decide
  intro row hr
  simpa using List.all_eq_true.1 h row hr

theorem test_witness_EncodeDecodeWord : ∃ w i, decode w = .instr i := ⟨0x00E0, .cls, by decide⟩
theorem test_witness_DecodeMatchesExactlyItsRow : ∃ (w : Word) (row : Word × Word), opcodeMap[33]? = some row ∧
    w &&& row.2 = row.1 := ⟨0xF265, (0xF065, 0xF0FF), by decide⟩
theorem test_witness_IllegalWordsAreUnknown : ∃ w : Word, ∀ row ∈ opcodeMap, w &&& row.2 ≠ row.1 :=
  ⟨0x0000#16, zero_matches_none⟩
theorem test_witness_StepRunsDecodedInstruction : ∃ (s : State) (i : Instr), s.run = .running ∧ 0x200 ≤ s.pc.toNat ∧
    s.pc.toNat + 1 < 0xEA0 ∧ decode (BitVec.ofNat 16 ((s.read s.pc.toNat).toNat * 256 +
      (s.read (s.pc.toNat + 1)).toNat)) = .instr i ∧ s.schedule = .instrTick :: [] :=
  ⟨poke 0xE9F 0xE0 { base with pc := 0xE9E, schedule := [.instrTick] }, .cls, by decide⟩
theorem test_witness_StepRunsDecodedInstruction_round : State.reset.schedule = [] := rfl
theorem test_witness_StepRunsDecodedInstruction_tick : ∃ (s : State) (i : Instr), s.run = .running ∧
    0x200 ≤ s.pc.toNat ∧ s.pc.toNat + 1 < 0xEA0 ∧ decode (BitVec.ofNat 16 ((s.read s.pc.toNat).toNat * 256 +
      (s.read (s.pc.toNat + 1)).toNat)) = .instr i ∧ s.schedule = .instrTick :: [.dtTick] :=
  ⟨poke 0x201 0xEE { base with pc := 0x200, schedule := [.instrTick, .dtTick] }, .ret, by decide⟩
theorem test_witness_FetchFails : ∃ s : State, s.run = .running ∧ s.schedule = .instrTick :: [] ∧
    ¬(0x200 ≤ s.pc.toNat ∧ s.pc.toNat + 1 < 0xEA0) := ⟨{ base with pc := 0x1FF, schedule := [.instrTick] }, by decide⟩
theorem test_witness_FetchFails_top : ∃ s : State, s.run = .running ∧ s.schedule = .instrTick :: [] ∧
    ¬(0x200 ≤ s.pc.toNat ∧ s.pc.toNat + 1 < 0xEA0) := ⟨{ base with pc := 0xE9F, schedule := [.instrTick] }, by decide⟩
theorem test_witness_DecodeFails : ∃ (s : State) (w : Word), s.run = .running ∧ s.schedule = .instrTick :: [.stTick] ∧
    0x200 ≤ s.pc.toNat ∧ s.pc.toNat + 1 < 0xEA0 ∧ w = BitVec.ofNat 16 ((s.read s.pc.toNat).toNat * 256 +
      (s.read (s.pc.toNat + 1)).toNat) ∧ ∀ row ∈ opcodeMap, w &&& row.2 ≠ row.1 :=
  ⟨{ base with pc := 0xE9E, schedule := [.instrTick, .stTick] }, 0x0000#16, rfl, rfl, by decide, by decide, by decide, zero_matches_none⟩
theorem test_witness_HaltedCoreIsFrozen : ∀ m ∈ [[Move.instrTick], [.dtTick], [.stTick]],
    ∃ (s : State) (r : FaultRecord), s.run = .halted r ∧ s.schedule = m :=
  fun m _ => ⟨{ base with run := .halted ⟨.invalidKey, none, none⟩, schedule := m }, _, rfl, rfl⟩
theorem test_witness_WaitKeyStepTakesHeldKey : (∃ (s : State) (x : Reg), s.run = .waitKey x ∧
      s.schedule = .instrTick :: [] ∧ s.keys = 0#16) ∧
    (∃ (s : State) (x : Reg), s.run = .waitKey x ∧ s.schedule = .instrTick :: [.dtTick] ∧ s.keys ≠ 0#16) :=
  ⟨⟨{ base with run := .waitKey 0xF, schedule := [.instrTick] }, 0xF, by decide⟩,
    ⟨{ base with run := .waitKey 0, keys := 0x8001, schedule := [.instrTick, .dtTick] }, 0, by decide⟩⟩
theorem test_witness_TimerTickDecrements : ∀ d ∈ [0#8, 1#8, 255#8], (∃ (s : State) (rest : List Move),
    s.schedule = .dtTick :: rest ∧ s.dt = d) ∧ (∃ (s : State) (rest : List Move), s.schedule = .stTick :: rest ∧ s.st = d) :=
  fun d _ => ⟨⟨{ base with dt := d, schedule := [.dtTick] }, [], rfl, rfl⟩, ⟨{ base with st := d, schedule := [.stTick] }, [], rfl, rfl⟩⟩
theorem test_witness_TimerCountsDownToZero : ∃ s : State, s.schedule = List.replicate 5 .dtTick ∧
    (∀ r, s.run ≠ .halted r) ∧ s.dt = 5 :=
  ⟨{ base with dt := 5, schedule := List.replicate 5 .dtTick }, rfl, by simp [base, State.reset, State.resetWith], rfl⟩
/-! An infinite run (TimerCountsDownToZero, its fairness clauses). -/

/-- The program 0x1200 at 0x200 with PC there, and agents and keys alone moving: what the infinite run below keeps. -/
def Looping (s : State) : Prop :=
  s.run = .running ∧ s.pc = 0x200#16 ∧ s.mem = [(0x200, 0x12#8)] ∧ s.params = Config.defaults ∧
  ∀ m ∈ s.schedule, (∃ a, m = tickOf a) ∨ ∃ k, m = .keys k

/-- Each of those moves goes on looping and raises no timer. -/
theorem looping_move {s : State} {m : Move} (h : Looping s) (hm : (∃ a, m = tickOf a) ∨ ∃ k, m = .keys k) :
    ∃ t, moveStep m s = .next t ∧ Looping t ∧ t.dt.toNat ≤ s.dt.toNat ∧ t.st.toNat ≤ s.st.toNat := by
  obtain ⟨h1, h2, h3, h4, h5⟩ := h
  rcases hm with ⟨a | a | a, rfl⟩ | ⟨k, rfl⟩
  · refine ⟨s.startRun, ?_, ⟨h1, h2, h3, h4, h5⟩, le_rfl, le_rfl⟩
    have hf : fetchable s.startRun.pc = true := by simp only [State.startRun, h2]; decide
    have hw : s.startRun.fetchWord = 0x1200#16 := by
      simp only [State.fetchWord, State.read, State.startRun, h2, h3, h4]; decide
    have hd : decode s.startRun.fetchWord = .instr (.jp 0x200) := by rw [hw]; decide
    simp only [tickOf, moveStep, cpuStep, h1, runStep_of_instr hf hd]
    simp [exec, execJp, State.advancePc, State.startRun, addressOf, ← h2]
    rfl
  · refine ⟨if s.dtRunning && !s.isHalted then s.setDt (s.dt - 1#8) else s, ?_, ?_⟩
    · simp only [tickOf, moveStep, dtTickStep]; split <;> rfl
    · split
      · refine ⟨⟨h1, h2, h3, h4, h5⟩, ?_, le_rfl⟩
        simp_all [State.dtRunning]; bv_omega
      · exact ⟨⟨h1, h2, h3, h4, h5⟩, le_rfl, le_rfl⟩
  · refine ⟨if s.stRunning && !s.isHalted then s.setSt (s.st - 1#8) else s, ?_, ?_⟩
    · simp only [tickOf, moveStep, stTickStep]; split <;> rfl
    · split
      · refine ⟨⟨h1, h2, h3, h4, h5⟩, le_rfl, ?_⟩
        simp_all [State.stRunning]; bv_omega
      · exact ⟨⟨h1, h2, h3, h4, h5⟩, le_rfl, le_rfl⟩
  · exact ⟨_, rfl, ⟨h1, h2, h3, h4, h5⟩, le_rfl, le_rfl⟩

theorem looping_step {s : State} (h : Looping s) :
    ∃ t, step s = .next t ∧ Looping t ∧ t.dt.toNat ≤ s.dt.toNat ∧ t.st.toNat ≤ s.st.toNat := by
  obtain ⟨u, m, rest, e, hs, hu⟩ := step_cases s
  have hl : Looping u ∧ u.dt = s.dt ∧ u.st = s.st := by
    rcases hu with rfl | ⟨-, rfl⟩
    · exact ⟨h, rfl, rfl⟩
    · obtain ⟨h1, h2, h3, h4, -⟩ := h
      exact ⟨⟨h1, h2, h3, h4, fun _ => mem_roundMoves⟩, rfl, rfl⟩
  obtain ⟨⟨h1, h2, h3, h4, h5⟩, hd, ht⟩ := hl
  rw [e] at h5
  obtain ⟨t, k1, k2, k3, k4⟩ := looping_move (s := { u with schedule := rest }) ⟨h1, h2, h3, h4,
    fun _ hm => h5 _ (List.mem_cons_of_mem _ hm)⟩ (h5 m List.mem_cons_self)
  exact ⟨t, hs ▸ k1, k2, hd ▸ k3, ht ▸ k4⟩

/-- An infinite run that never halts, in which nothing raises a timer and DT is 5 at first. -/
theorem test_witness_IsRun : ∃ run : Nat → State, IsRun run ∧ (∀ n, (run n).isHalted = false) ∧
    (∀ n, (run (n + 1)).dt.toNat ≤ (run n).dt.toNat) ∧ (∀ n, (run (n + 1)).st.toNat ≤ (run n).st.toNat) ∧
    (run 0).dt = 5 := by
  let next : { s : State // Looping s } → { s : State // Looping s } := fun s =>
    ⟨(looping_step s.2).choose, (looping_step s.2).choose_spec.2.1⟩
  let start : { s : State // Looping s } := ⟨poke 0x200 0x12 { base with pc := 0x200, dt := 5 },
    rfl, rfl, rfl, rfl, fun _ h => absurd h List.not_mem_nil⟩
  let run : Nat → { s : State // Looping s } := fun n => Nat.rec start (fun _ s => next s) n
  exact ⟨fun n => (run n).1, fun n => (looping_step (run n).2).choose_spec.1,
    fun n => by simp [State.isHalted, (run n).2.1],
    fun n => (looping_step (run n).2).choose_spec.2.2.1, fun n => (looping_step (run n).2).choose_spec.2.2.2, rfl⟩
theorem test_witness_HostMovesDoWhatTheyMay : ∀ m ∈ [Move.keys 0xFFFF, .load [], .shutdown, .reset],
    ∃ s : State, s.schedule = m :: [] ∧ s.loadOpen = false := fun m _ => ⟨{ base with schedule := [m] }, rfl, rfl⟩
theorem test_witness_ImageLoadCopiesOrRejects : ∀ n ∈ [0, 3232, 3233], ∃ (s : State) (image : List Byte)
    (rest : List Move), s.schedule = .load image :: rest ∧ s.loadOpen = true ∧ image.length = n ∧ s.ramWf = true :=
  fun n _ => ⟨{ State.reset with schedule := [.load (List.replicate n 1)] }, List.replicate n 1, [], rfl, rfl,
    List.length_replicate, rfl⟩
theorem test_witness_ResetMoveRestoresReset : ∃ (s : State) (r : FaultRecord), s.schedule = .reset :: [] ∧
    s.run = .halted r := ⟨{ base with schedule := [.reset], run := .halted ⟨.stackOverflow, none, none⟩ }, _, rfl, rfl⟩
theorem test_witness_CallPushesReturn : (∃ s : State, s.sp.val < 16) ∧ (∃ s : State, s.sp.val = 15) ∧
    (∃ s : State, s.sp.val = 16) := ⟨⟨base, by decide⟩, ⟨{ base with sp := 15 }, rfl⟩, ⟨{ base with sp := 16 }, rfl⟩⟩
theorem test_witness_ReturnPopsOrDoesNothing : (∃ s : State, 0 < s.sp.val) ∧ (∃ s : State, s.sp.val = 16) ∧
    (∃ s : State, s.sp.val = 0) := ⟨⟨{ base with sp := 1 }, by decide⟩, ⟨{ base with sp := 16 }, rfl⟩, ⟨base, rfl⟩⟩
theorem test_witness_CallsThenReturnsRestore : (∃ (ts : List (BitVec 12)) (s : State), s.sp.val + ts.length ≤ 16 ∧
    ts.length = 16) ∧ (∃ (ts : List (BitVec 12)) (s : State), s.sp.val + ts.length ≤ 16 ∧ s.sp.val = 15) :=
  ⟨⟨List.replicate 16 0x300, base, by decide⟩, ⟨[0x300], { base with sp := 15 }, by decide⟩⟩
theorem test_witness_SkipsAddTwo : ∃ (s : State) (x : Reg), (s.getV x).toNat ≤ 15 ∧ s.keys.getLsbD 15 = true :=
  ⟨{ base.setV 0xF 15 with keys := 0x8000 }, 0xF, by decide⟩
theorem test_witness_KeySkipRejectsBadCode : (∃ (s : State) (x : Reg), 15 < (s.getV x).toNat ∧ s.getV x = 16) ∧
    (∃ (s : State) (x : Reg), 15 < (s.getV x).toNat ∧ s.getV x = 255) :=
  ⟨⟨base.setV 1 16, 1, by decide⟩, ⟨base.setV 0xF 255, 0xF, by decide⟩⟩
/-- The clause for X other than F (RegisterLoads, AddImmediateWraps, AddRegisterCarries, SubtractFlagsStrictly,
ShiftsSourceVy). -/
theorem test_witness_result_not_vf : ∃ x : Reg, x ≠ vf := ⟨0xE, by decide⟩
theorem test_witness_FontGlyphAddress : (∃ (s : State) (x : Reg), (s.getV x).toNat ≤ 15 ∧ s.getV x = 15) ∧
    (∃ (s : State) (x : Reg), 15 < (s.getV x).toNat ∧ s.getV x = 16) :=
  ⟨⟨base.setV 1 15, 1, by decide⟩, ⟨base.setV 1 16, 1, by decide⟩⟩
/-- An address instance of Addressable, from the check itself. -/
theorem addressable_of (a : Nat) (h : isAddressable a = true) : Addressable a := by
  simpa [isAddressable, Addressable] using h
theorem test_witness_BcdStoresDigits : ∀ a ∈ [0xE9D#16, 0x09D#16], ∃ s : State, s.ramWf = true ∧ s.i = a ∧
    ∀ k, k < 3 → Addressable (s.i.toNat + k) := by
  intro a ha
  refine ⟨atI a, rfl, rfl, fun k hk => ?_⟩
  simp only [List.mem_cons, List.not_mem_nil, or_false] at ha
  rcases ha with rfl | rfl <;> (simp only [atI, State.setI, Addressable, BitVec.toNat_ofNat]; omega)
theorem test_witness_BcdRefused : ∀ a ∈ [0xE9E#16, 0x04F#16, 0x09E#16, 0x1FF#16], ∃ s : State, s.i = a ∧
    ∃ k, k < 3 ∧ ¬Addressable (s.i.toNat + k) := by
  intro a ha
  refine ⟨atI a, rfl, ?_⟩
  simp only [List.mem_cons, List.not_mem_nil, or_false] at ha
  simp only [atI, State.setI, Addressable]
  rcases ha with rfl | rfl | rfl | rfl
  · exact ⟨2, by decide⟩
  · exact ⟨0, by decide⟩
  · exact ⟨2, by decide⟩
  · exact ⟨0, by decide⟩
/-- StoreRegistersStores and LoadRegistersLoads. -/
theorem test_witness_RegisterRange : ∀ a ∈ [0xE90#16, 0x090#16], ∃ (s : State) (x : Reg), s.ramWf = true ∧ s.i = a ∧
    x = 15 ∧ ∀ k, k ≤ x.toNat → Addressable (s.i.toNat + k) := by
  intro a ha
  refine ⟨atI a, 15, rfl, rfl, rfl, fun k hk => ?_⟩
  have hk' : k ≤ 15 := hk
  simp only [List.mem_cons, List.not_mem_nil, or_false] at ha
  rcases ha with rfl | rfl <;> (simp only [atI, State.setI, Addressable, BitVec.toNat_ofNat]; omega)
theorem test_witness_RegisterRangeRefused : ∃ (s : State) (x : Reg), s.i = 0xE91 ∧
    ∃ k, k ≤ x.toNat ∧ ¬Addressable (s.i.toNat + k) :=
  ⟨atI 0xE91, 15, rfl, 15, by simp only [atI, State.setI, Addressable]; decide⟩
/-- StoreThenLoadReturnsRegisters, StoresLeaveOtherBytes, and the frames' hypothesis that exec answers. -/
theorem test_witness_StoreThenLoad : ∃ (s t : State) (x : Reg), s.ramWf = true ∧ s.run = .running ∧
    exec (.storeRegs x) s = .next t ∧ t.run = .running := ⟨(atI 0x300).setV 0 7, _, 0, by decide, rfl, rfl, rfl⟩
theorem test_witness_StoresLeaveOtherBytes : (∃ (s t : State) (x : Reg), exec (.ldB x) s = .next t) ∧
    (∃ (s t : State) (x : Reg), exec (.storeRegs x) s = .next t) :=
  ⟨⟨atI 0x300, _, 0, rfl⟩, ⟨atI 0x300, _, 0, rfl⟩⟩
theorem test_witness_OtherInstructionsKeepRam : ∃ (i : Instr) (s t : State), writesRam i = false ∧
    exec i s = .next t := ⟨.ldVxDt 0, base, _, rfl, rfl⟩
theorem test_witness_StoreIsSeenByFetch : ∃ (s t : State) (x a b : Reg) (p : Word), s.ramWf = true ∧
    s.run = .running ∧ exec (.storeRegs x) s = .next t ∧ t.run = .running ∧ p.toNat = s.i.toNat + a.toNat ∧
    b.toNat = a.toNat + 1 ∧ b.toNat ≤ x.toNat := ⟨atI 0x300, _, 1, 0, 1, 0x300, rfl, rfl, rfl, rfl, by decide⟩
theorem test_witness_DrawXorsSprite : ∃ (s : State) (y : Reg) (n : BitVec 4), n = 15 ∧ s.getV y = 17 ∧
    (∀ k, k < n.toNat → Addressable (s.i.toNat + k)) ∧ (s.getV y).toNat % 32 + n.toNat ≤ 32 := by
  refine ⟨(atI 0xE91#16).setV 1 17, 1, 15#4, rfl, by decide, fun k hk => ?_, by decide⟩
  have hk' : k < 15 := hk
  simp only [atI, State.setI, State.setV, Addressable, BitVec.toNat_ofNat]; omega
/-- A draw of no row at an I that is not addressable. -/
theorem test_witness_DrawXorsSprite_empty : ∃ (s : State) (y : Reg) (n : BitVec 4), s.i = 0 ∧ n = 0 ∧
    (∀ k, k < n.toNat → Addressable (s.i.toNat + k)) ∧ (s.getV y).toNat % 32 + n.toNat ≤ 32 :=
  ⟨base, 0, 0, rfl, rfl, fun _ h => absurd h (Nat.not_lt_zero _), by decide⟩
theorem test_witness_DrawTrapsInOrder : (∃ (s : State) (n : BitVec 4), s.i = 0xE9F ∧ n = 2 ∧
      ∃ k, k < n.toNat ∧ ¬Addressable (s.i.toNat + k)) ∧
    (∃ (s : State) (y : Reg) (n : BitVec 4), s.getV y = 28 ∧ n = 5 ∧
      (∀ k, k < n.toNat → Addressable (s.i.toNat + k)) ∧ 32 < (s.getV y).toNat % 32 + n.toNat) := by
  refine ⟨⟨atI 0xE9F, 2, rfl, rfl, 1, by simp only [atI, State.setI, Addressable]; decide⟩,
    ⟨(atI 0x050#16).setV 1 28, 1, 5#4, by decide, rfl, fun k hk => ?_, by decide⟩⟩
  have hk' : k < 5 := hk
  simp only [atI, State.setI, State.setV, Addressable, BitVec.toNat_ofNat]; omega
/-- DrawReportsCollision and DrawTwiceRestores: a draw that turns a pixel on, and one that turns one off. -/
theorem test_witness_Draw : (∃ s t : State, s.run = .running ∧ exec (.drw 0 0 1) s = .next t ∧ t.run = .running ∧
      s.render 0 0 = false ∧ t.render 0 0 = true) ∧
    (∃ s t : State, s.run = .running ∧ exec (.drw 0 0 1) s = .next t ∧ t.run = .running ∧
      s.render 0 0 = true ∧ t.render 0 0 = false) :=
  ⟨⟨atI 0x050, _, rfl, rfl, rfl, by decide +kernel, by decide +kernel⟩,
    ⟨(atI 0x050).setFb (flipPixel blankFrame 0), _, rfl, rfl, rfl, by decide +kernel, by decide +kernel⟩⟩
theorem test_witness_WaitForKeyTakesHeldKeyOrWaits : (∃ s : State, s.keys ≠ 0#16) ∧ (∃ s : State, s.keys = 0#16) :=
  ⟨⟨{ base with keys := 0x8000 }, by decide⟩, ⟨base, rfl⟩⟩
theorem test_witness_FatalConditionsArePrecise : ∃ (i : Instr) (s t : State) (r : FaultRecord), s.run = .running ∧
    exec i s = .next t ∧ t.run = .halted r := ⟨.call 0x300, { base with sp := 16 }, _, _, rfl, rfl, rfl⟩
theorem test_witness_StepNeverRaisesInvalidRegister : ∃ (s t : State) (r : FaultRecord), (∀ r', s.run ≠ .halted r') ∧
    step s = .next t ∧ t.run = .halted r :=
  ⟨{ base with pc := 0, schedule := [.instrTick] }, _, _, by simp [base, State.reset, State.resetWith], rfl, rfl⟩
/-- RegisterFrame, SpecialRegisterFrame and DisplayHostAndRunFrame: 8XY4 with X = E writes none of the others. -/
theorem test_witness_Frames : ∃ (i : Instr) (s t : State), exec i s = .next t ∧ writesV i 0 = false ∧
    writesI i = false ∧ writesPc i = false ∧ usesStack i = false ∧ writesFb i = false :=
  ⟨.addReg 0xE 0xF, base, _, rfl, rfl, rfl, rfl, rfl, rfl⟩
/-- SpecialRegisterFrame at a call: the slots other than SP. -/
theorem test_witness_Frames_call : ∃ (i : Instr) (s t : State), exec i s = .next t ∧ (∃ nnn, i = .call nnn) ∧
    15 ≠ s.sp.val := ⟨.call 0x300, base, _, rfl, ⟨_, rfl⟩, by decide⟩
theorem test_witness_StepKeepsRamIntact : ∃ s t : State, RamIntact s ∧ s.mem ≠ [] ∧ step s = .next t := by
  refine ⟨poke 0x200 0x60 { base with pc := 0x200, schedule := [.instrTick] }, _, ⟨by decide, ?_⟩, by decide, rfl⟩
  intro c hc
  have : c = (0x200, 0x60#8) := by simpa [poke, base, State.reset, State.resetWith, State.store, Memory.writeAll, Memory.write, Memory.unlisted] using hc
  subst this; exact Or.inl (by decide)
theorem test_witness_StepKeepsPcBounded : ∃ s t : State, PcBounded s ∧ s.pc = 0x10FE ∧ step s = .next t :=
  ⟨{ base with pc := 0x10FE, schedule := [.instrTick] }, _,
    ⟨by decide, fun k hk => by simp [base, State.reset, State.resetWith]⟩, rfl, rfl⟩
theorem test_witness_ReservedBytesNeverChange : ∀ a ∈ [0x04F, 0x0A0, 0x1FF, 0xEA0, 0xFFF, 0x1000],
    ∃ s t : State, step s = .next t ∧ (∀ rest, s.schedule ≠ .reset :: rest) ∧ ¬Addressable a := by
  intro a ha
  refine ⟨{ base with schedule := [.instrTick] }, _, rfl, by simp, ?_⟩
  simp only [List.mem_cons, List.not_mem_nil, or_false] at ha
  unfold Addressable; omega
theorem test_witness_TimersAreInvisible : ∃ (i : Instr) (s t : State), exec i s = .next t ∧
    (∀ x, i ≠ .ldVxDt x ∧ i ≠ .ldDtVx x) ∧ (∀ x, i ≠ .ldStVx x) := ⟨.ldI 0, base, _, rfl, by simp, by simp⟩
theorem test_witness_DeadStackSlots : ∃ (s t : State) (k' : Vector Word 16), s.sp.val = 1 ∧
    (∀ k, (h : k < s.sp.val) → k'[k]'(by have := s.sp.isLt; omega) = s.stack[k]'(by have := s.sp.isLt; omega)) ∧
    k' ≠ s.stack ∧ exec .ret s = .next t := by
  refine ⟨{ base with sp := 1 }, _, base.stack.set 1 5, rfl, ?_, by decide, rfl⟩
  intro k hk
  have : k = 0 := by simpa using hk
  subst this; rfl
theorem test_witness_SelfJumpRepeats : ∃ s : State, Done s ∧ s.schedule = .instrTick :: [] :=
  ⟨poke 0x200 0x12 { base with pc := 0x200, schedule := [.instrTick] }, ⟨rfl, by decide, 0x200, by decide⟩, rfl⟩
theorem test_witness_StatusOutputs : ∃ (s : State) (r : FaultRecord), s.run = .halted r ∧ s.st.toNat ≠ 0 :=
  ⟨{ base with st := 1, run := .halted ⟨.invalidDigit, none, none⟩ }, _, rfl, by decide⟩

end Sys2Proof.Tests
end

section
/-! PROOFS. The moves of the host, `00_scope.md` (rules R8, R11; U20, U21). -/

namespace Sys2Proof.Machine

/-- R8, U21: a load after the load was closed. -/
theorem loadStep_of_closed {image : List Byte} {s : State} (h : s.loadOpen = false) :
    loadStep image s = .refused .loadAfterStart := by
  simp [loadStep, h]

/-- Settles O12: each listed host move is the step's own move, and the closed load port refuses. -/
theorem hostMovesDoWhatTheyMay : Obligations.HostMovesDoWhatTheyMay := by
  intro s rest
  refine ⟨fun k hmove => ?keys, fun image hmove hclosed => ?load, fun hmove => ?shutdown⟩
  case keys => rw [step_of_cons hmove, moveStep, keysStep]
  case load =>
    rw [step_of_cons hmove, moveStep]
    exact loadStep_of_closed hclosed
  case shutdown => rw [step_of_cons hmove, moveStep]

end Sys2Proof.Machine
end

section
/-! PROOFS. RAM, `20_memory.md` (rules R50, R51, R53, R55, R60) and `00_scope.md` (rule R5): a step leaves RAM as it is,
writes one span that passes the check, or resets it. -/

namespace Sys2Proof.Machine

open Sys2Proof.Safety

/-! ## States with the same RAM and parameters -/

/-- t has the RAM of s and the parameters of s. -/
def SameRam (s t : State) : Prop := t.mem = s.mem ∧ t.params = s.params

theorem SameRam.read_eq {s t : State} (h : SameRam s t) (a : Nat) : t.read a = s.read a := by
  obtain ⟨hmem, hparams⟩ := h
  simp only [State.read, hmem, hparams]

theorem SameRam.store {s t : State} (h : SameRam s t) (a : Nat) (bytes : List Byte) :
    SameRam (s.store a bytes) (t.store a bytes) := by
  obtain ⟨hmem, hparams⟩ := h
  simp only [SameRam, State.store_mem, State.store_params, hmem, hparams, and_self]

theorem SameRam.trans {s t u : State} (h : SameRam s t) (h' : SameRam t u) : SameRam s u :=
  ⟨h'.1.trans h.1, h'.2.trans h.2⟩

theorem SameRam.ramIntact {s t : State} (h : SameRam s t) (hs : RamIntact s) : RamIntact t := by
  obtain ⟨hmem, hparams⟩ := h
  simpa only [RamIntact, State.ramWf, hmem, hparams] using hs

theorem skipIf_sameRam (c : Bool) (s : State) : SameRam s (skipIf c s) := by
  rw [skipIf_eq]
  exact ⟨rfl, rfl⟩

theorem State.popReturn_sameRam (s : State) : SameRam s s.popReturn := by
  rcases Nat.eq_zero_or_pos s.sp.val with h | h
  · rw [s.popReturn_zero h]; exact ⟨rfl, rfl⟩
  · rw [s.popReturn_pos h]; exact ⟨rfl, rfl⟩

theorem State.setVsFrom_sameRam (k : Nat) (bytes : List Byte) (s : State) : SameRam s (State.setVsFrom k bytes s) := by
  rw [State.setVsFrom_eq]
  exact ⟨rfl, rfl⟩

/-! ## What holds of the next state, when there is one -/

/-- The outcome is a stop, or a next state of which P holds. -/
def OnNext (P : State → Prop) (r : Result) : Prop := ∀ t, r = .next t → P t

theorem onNext_next {P : State → Prop} {t : State} (h : P t) : OnNext P (.next t) := by
  rintro _ ⟨⟩
  exact h

theorem onNext_fault (P : State → Prop) (r : Fault) : OnNext P (.fault r) := fun _ h => nomatch h

theorem onNext_refused (P : State → Prop) (r : Refusal) : OnNext P (.refused r) := fun _ h => nomatch h

theorem OnNext.mono {P Q : State → Prop} {r : Result} (h : OnNext P r) (hPQ : ∀ t, P t → Q t) : OnNext Q r :=
  fun t ht => hPQ t (h t ht)

theorem raise_sameRam (c : Cause) (i : Instr) (s : State) : OnNext (SameRam s) (raise c i s) :=
  onNext_next ⟨rfl, rfl⟩

/-! ## The instructions that do not store (R51, R60, R146) -/

theorem execCall_sameRam (nnn : BitVec 12) (s : State) : OnNext (SameRam s) (execCall nnn s) := by
  unfold execCall
  split
  · next t ht =>
    obtain ⟨-, rfl⟩ := s.pushReturn_eq_some ht
    exact onNext_next ⟨rfl, rfl⟩
  · exact raise_sameRam _ _ s

theorem execDrw_sameRam (x y : Reg) (n : BitVec 4) (s : State) : OnNext (SameRam s) (execDrw x y n s) := by
  unfold execDrw
  split
  · exact raise_sameRam _ _ s
  · split
    · exact raise_sameRam _ _ s
    · exact onNext_next ⟨rfl, rfl⟩

theorem execSkp_sameRam (x : Reg) (s : State) : OnNext (SameRam s) (execSkp x s) := by
  unfold execSkp
  split
  · exact onNext_next (skipIf_sameRam _ s)
  · exact raise_sameRam _ _ s

theorem execSknp_sameRam (x : Reg) (s : State) : OnNext (SameRam s) (execSknp x s) := by
  unfold execSknp
  split
  · exact onNext_next (skipIf_sameRam _ s)
  · exact raise_sameRam _ _ s

theorem execLdVxK_sameRam (x : Reg) (s : State) : OnNext (SameRam s) (execLdVxK x s) := by
  unfold execLdVxK
  split <;> exact onNext_next ⟨rfl, rfl⟩

theorem execLdF_sameRam (x : Reg) (s : State) : OnNext (SameRam s) (execLdF x s) := by
  unfold execLdF
  split
  · exact onNext_next ⟨rfl, rfl⟩
  · exact raise_sameRam _ _ s

theorem execLoadRegs_sameRam (x : Reg) (s : State) : OnNext (SameRam s) (execLoadRegs x s) := by
  unfold execLoadRegs
  split
  · exact onNext_next (State.setVsFrom_sameRam _ _ s)
  · exact raise_sameRam _ _ s

/-- Every instruction but FX33 and FX55 keeps RAM and the parameters, fatal or not (R51, R60, R146). -/
theorem exec_sameRam {i : Instr} (hi : writesRam i = false) (s : State) : OnNext (SameRam s) (exec i s) := by
  cases i with
  | ldB | storeRegs => cases hi
  | call nnn => exact execCall_sameRam nnn s
  | drw x y n => exact execDrw_sameRam x y n s
  | skp x => exact execSkp_sameRam x s
  | sknp x => exact execSknp_sameRam x s
  | ldVxK x => exact execLdVxK_sameRam x s
  | ldF x => exact execLdF_sameRam x s
  | loadRegs x => exact execLoadRegs_sameRam x s
  | ret => exact onNext_next s.popReturn_sameRam
  | seImm | sneImm | seReg | sneReg => exact onNext_next (skipIf_sameRam _ s)
  | cls | jp | jpV0 | ldI | addI | ldDtVx | ldStVx => exact onNext_next ⟨rfl, rfl⟩
  | ldImm | addImm | ldReg | orReg | andReg | xorReg | rnd | ldVxDt => exact onNext_next ⟨rfl, rfl⟩
  | addReg | subReg | shrReg | subnReg | shlReg => exact onNext_next ⟨rfl, rfl⟩

/-! ## One checked write (R55) -/

/-- From s to t RAM changes by one store to a span that passes the check, perhaps an empty one (R55), and the parameters
do not change. -/
def CheckedStore (s t : State) : Prop :=
  ∃ a bytes, spanAddressable a bytes.length = true ∧ SameRam (s.store a bytes) t

theorem SameRam.checkedStore {s t : State} (h : SameRam s t) : CheckedStore s t := ⟨0, [], rfl, h⟩

theorem SameRam.trans_checkedStore {s t u : State} (h : SameRam s t) (h' : CheckedStore t u) : CheckedStore s u := by
  obtain ⟨a, bytes, hspan, hu⟩ := h'
  exact ⟨a, bytes, hspan, (h.store a bytes).trans hu⟩

theorem State.memWrite_checkedStore {s t : State} {a : Nat} {bytes : List Byte} (h : s.memWrite a bytes = some t) :
    CheckedStore s t := by
  obtain ⟨hspan, rfl⟩ := (State.memWrite_eq_some_iff s t a bytes).1 h
  exact ⟨a, bytes, hspan, rfl, rfl⟩

theorem CheckedStore.params_eq {s t : State} (h : CheckedStore s t) : t.params = s.params := by
  obtain ⟨_, _, _, -, hparams⟩ := h
  exact hparams

theorem CheckedStore.ramIntact {s t : State} (h : CheckedStore s t) (hs : RamIntact s) : RamIntact t := by
  obtain ⟨a, bytes, hspan, hram⟩ := h
  obtain ⟨hwf, hcells⟩ := hs
  have hwrite : s.memWrite a bytes = some (s.store a bytes) := (State.memWrite_eq_some_iff ..).2 ⟨hspan, rfl⟩
  refine hram.ramIntact ⟨State.memWrite_wf hwrite hwf, fun c hc => ?_⟩
  rcases State.memWrite_cells hwrite hc with hold | hnew
  · exact hcells c hold
  · exact (isAddressable_iff c.1).1 hnew

/-- An address that is not addressable lies in no span that passes the check (R53, R55). -/
theorem outside_of_not_addressable {a n q : Nat} (hspan : spanAddressable a n = true) (hq : ¬Addressable q) :
    q < a ∨ a + n ≤ q := by
  by_contra hin
  have hq' := (spanAddressable_iff a n).1 hspan (q - a) (by omega)
  rw [show a + (q - a) = q by omega] at hq'
  exact hq ((isAddressable_iff q).1 hq')

theorem CheckedStore.read_eq {s t : State} (h : CheckedStore s t) {q : Nat} (hq : ¬Addressable q) :
    t.read q = s.read q := by
  obtain ⟨a, bytes, hspan, hram⟩ := h
  rw [hram.read_eq, s.read_store_outside (outside_of_not_addressable hspan hq)]

/-! ## The step -/

theorem execLdB_checkedStore (x : Reg) (s : State) : OnNext (CheckedStore s) (execLdB x s) := by
  unfold execLdB
  split
  · next t ht => exact onNext_next (State.memWrite_checkedStore ht)
  · exact (raise_sameRam _ _ s).mono fun _ => SameRam.checkedStore

theorem execStoreRegs_checkedStore (x : Reg) (s : State) : OnNext (CheckedStore s) (execStoreRegs x s) := by
  unfold execStoreRegs
  split
  · next t ht => exact onNext_next (State.memWrite_checkedStore ht)
  · exact (raise_sameRam _ _ s).mono fun _ => SameRam.checkedStore

/-- No instruction writes RAM but by one checked store, and none changes the parameters (R5, R55, R60). -/
theorem exec_checkedStore (i : Instr) (s : State) : OnNext (CheckedStore s) (exec i s) := by
  cases hi : writesRam i with
  | false => exact (exec_sameRam hi s).mono fun _ => SameRam.checkedStore
  | true =>
    cases i with
    | ldB x => exact execLdB_checkedStore x s
    | storeRegs x => exact execStoreRegs_checkedStore x s
    | _ => cases hi

theorem runStep_checkedStore (s : State) : OnNext (CheckedStore s) (runStep s) := by
  have hadvance : SameRam s s.advancePc := ⟨rfl, rfl⟩
  unfold runStep
  split
  · split
    · next i _ => exact (exec_checkedStore i s.advancePc).mono fun _ => hadvance.trans_checkedStore
    · exact onNext_next (SameRam.checkedStore ⟨rfl, rfl⟩)
  · exact onNext_next (SameRam.checkedStore ⟨rfl, rfl⟩)

theorem waitStep_sameRam (x : Reg) (s : State) : OnNext (SameRam s) (waitStep x s) := by
  unfold waitStep
  split <;> exact onNext_next ⟨rfl, rfl⟩

theorem cpuStep_checkedStore (s : State) : OnNext (CheckedStore s) (cpuStep s) := by
  have hstart : SameRam s s.startRun := ⟨rfl, rfl⟩
  unfold cpuStep
  split
  · exact (runStep_checkedStore s.startRun).mono fun _ => hstart.trans_checkedStore
  · next x _ => exact (waitStep_sameRam x s).mono fun _ => SameRam.checkedStore
  · exact onNext_fault _ _

theorem dtTickStep_sameRam (s : State) : OnNext (SameRam s) (dtTickStep s) := by
  unfold dtTickStep
  split <;> exact onNext_next ⟨rfl, rfl⟩

theorem stTickStep_sameRam (s : State) : OnNext (SameRam s) (stTickStep s) := by
  unfold stTickStep
  split <;> exact onNext_next ⟨rfl, rfl⟩

/-- The program region passes the span check as far as an image that fits reaches (R53, R245). -/
theorem spanAddressable_of_imageFits {image : List Byte} (h : imageFits image = true) :
    spanAddressable Config.progBase image.length = true := by
  have hlen := (imageFits_iff image).1 h
  refine (spanAddressable_iff _ _).2 fun k hk => (isAddressable_iff _).2 (.inl ?_)
  simp only [Config.progBase]
  omega

theorem loadStep_checkedStore (image : List Byte) (s : State) : OnNext (CheckedStore s) (loadStep image s) := by
  unfold loadStep
  split
  · split
    · next hfits => exact onNext_next ⟨_, image, spanAddressable_of_imageFits hfits, rfl, rfl⟩
    · exact onNext_next (SameRam.checkedStore ⟨rfl, rfl⟩)
  · exact onNext_refused _ _

/-- No move but reset writes RAM but by one checked store, and none of them changes the parameters (R5, R55). -/
theorem moveStep_checkedStore {m : Move} (hm : m ≠ .reset) (s : State) : OnNext (CheckedStore s) (moveStep m s) := by
  cases m with
  | instrTick => exact cpuStep_checkedStore s
  | dtTick => exact (dtTickStep_sameRam s).mono fun _ => SameRam.checkedStore
  | stTick => exact (stTickStep_sameRam s).mono fun _ => SameRam.checkedStore
  | keys k => exact onNext_next (SameRam.checkedStore ⟨rfl, rfl⟩)
  | load image => exact loadStep_checkedStore image s
  | reset => exact absurd rfl hm
  | shutdown => exact onNext_refused _ _

/-- A round of the free order lists no reset (R7, R240). -/
theorem reset_not_mem_roundMoves (turns : List Config.Turn) : Move.reset ∉ roundMoves turns := by
  intro hmem
  rcases mem_roundMoves hmem with ⟨a, ha⟩ | ⟨k, hk⟩
  · cases a <;> cases ha
  · cases hk

/-- All a step can do to RAM: one checked store, or, where the host listed a reset, back to no listed cell; the
parameters stay (R5, R55, R240). -/
theorem step_ram_cases {s t : State} (h : step s = .next t) :
    CheckedStore s t ∨ ((∃ rest, s.schedule = .reset :: rest) ∧ t.mem = [] ∧ t.params = s.params) := by
  obtain ⟨u, m, rest, hsched, hstep, hu⟩ := step_cases s
  rw [hstep] at h
  by_cases hm : m = .reset
  · subst hm
    rcases hu with rfl | ⟨-, rfl⟩
    · cases h
      exact .inr ⟨⟨rest, hsched⟩, rfl, rfl⟩
    · have hmem : Move.reset ∈ roundMoves (Config.round s.rounds) := by
        rw [← s.drawRound_schedule, hsched]
        exact List.mem_cons_self
      exact absurd hmem (reset_not_mem_roundMoves _)
  · have hsame : SameRam s { u with schedule := rest } := by
      rcases hu with rfl | ⟨-, rfl⟩ <;> exact ⟨rfl, rfl⟩
    exact .inl (hsame.trans_checkedStore (moveStep_checkedStore hm _ t h))

/-- Settles O53: a checked store keeps RAM intact, and a reset lists no cell. -/
theorem stepKeepsRamIntact : Obligations.StepKeepsRamIntact := by
  intro s t hs hstep
  rcases step_ram_cases hstep with hstore | ⟨-, hmem, -⟩
  · exact hstore.ramIntact hs
  · simp [RamIntact, State.ramWf, Memory.wf, hmem]

/-- Settles O38: an instruction that does not store keeps RAM, so every byte reads as before. -/
theorem otherInstructionsKeepRam : Obligations.OtherInstructionsKeepRam := by
  intro i s t hi hexec
  exact (exec_sameRam hi s t hexec).read_eq

/-- Settles O56: a checked store reaches no address that is not addressable; a reset keeps the parameters. -/
theorem reservedBytesNeverChange : Obligations.ReservedBytesNeverChange := by
  intro s t hstep
  rcases step_ram_cases hstep with hstore | ⟨⟨rest, hreset⟩, -, hparams⟩
  · exact ⟨hstore.params_eq, fun _ q hq => hstore.read_eq hq⟩
  · exact ⟨hparams, fun hnone => absurd hreset (hnone rest)⟩

end Sys2Proof.Machine
end

section
/-! PROOFS. The decoder, the encoder and the opcode map, `30_encoding.md` (rules R71, R72, R74 to R77). -/

namespace Sys2Proof

/-! ## A word with known fields is the word of its layout (R72) -/

theorem encodeNNN_of_fieldOp {w : Word} {op : BitVec 4} (hop : fieldOp w = op) : encodeNNN op (fieldNNN w) = w :=
  hop ▸ encodeNNN_fields w

theorem encodeXKK_of_fieldOp {w : Word} {op : BitVec 4} (hop : fieldOp w = op) :
    encodeXKK op (fieldX w) (fieldKK w) = w :=
  hop ▸ encodeXKK_fields w

theorem encodeXYN_of_fieldOp {w : Word} {op : BitVec 4} (hop : fieldOp w = op) :
    encodeXYN op (fieldX w) (fieldY w) (fieldN w) = w :=
  hop ▸ encodeXYN_fields w

theorem encodeXKK_of_fields {w : Word} {op : BitVec 4} {kk : Byte} (h : fieldOp w = op ∧ fieldKK w = kk) :
    encodeXKK op (fieldX w) kk = w :=
  h.2 ▸ encodeXKK_of_fieldOp h.1

theorem encodeXYN_of_fields {w : Word} {op n : BitVec 4} (h : fieldOp w = op ∧ fieldN w = n) :
    encodeXYN op (fieldX w) (fieldY w) n = w :=
  h.2 ▸ encodeXYN_of_fieldOp h.1

/-! ## Encode, then decode -/

/-- The decoder reads every instruction back from its word: the word's fields are the operands (R71, R72, R75). -/
@[simp] theorem decode_encode (i : Instr) : decode (encode i) = .instr i := by
  cases i with
  | cls | ret => rfl
  | jp | call | ldI | jpV0 => simp [encode, decode]
  | seImm | sneImm | ldImm | addImm | rnd => simp [encode, decode]
  | drw => simp [encode, decode]
  | seReg => simp [encode, decode, decodeFamily5]
  | ldReg | orReg | andReg | xorReg | addReg | subReg | shrReg | subnReg | shlReg =>
    simp [encode, decode, decodeFamily8]
  | sneReg => simp [encode, decode, decodeFamily9]
  | skp | sknp => simp [encode, decode, decodeFamilyE]
  | ldVxDt | ldVxK | ldDtVx | ldStVx | addI | ldF | ldB | storeRegs | loadRegs =>
    simp [encode, decode, decodeFamilyF]

/-! ## What the decoder can answer -/

/-- The answer d keeps every bit of w: an instruction whose word is w, or the rejection of w itself (R77). -/
def ReadFrom (w : Word) : Decoded → Prop
  | .instr i => encode i = w
  | .unknownInstruction v => v = w

theorem decodeFamily0_readFrom (w : Word) : ReadFrom w (decodeFamily0 w) := by
  unfold decodeFamily0
  split
  · next h => exact h.symm
  · split
    · next h => exact h.symm
    · rfl

theorem decodeFamily5_readFrom {w : Word} (hop : fieldOp w = 0x5#4) : ReadFrom w (decodeFamily5 w) := by
  unfold decodeFamily5
  split
  · next hn => exact encodeXYN_of_fields ⟨hop, hn⟩
  · rfl

theorem decodeFamily8_readFrom {w : Word} (hop : fieldOp w = 0x8#4) : ReadFrom w (decodeFamily8 w) := by
  unfold decodeFamily8
  split
  iterate 9 · next hn => exact encodeXYN_of_fields ⟨hop, hn⟩
  · rfl

theorem decodeFamily9_readFrom {w : Word} (hop : fieldOp w = 0x9#4) : ReadFrom w (decodeFamily9 w) := by
  unfold decodeFamily9
  split
  · next hn => exact encodeXYN_of_fields ⟨hop, hn⟩
  · rfl

theorem decodeFamilyE_readFrom {w : Word} (hop : fieldOp w = 0xE#4) : ReadFrom w (decodeFamilyE w) := by
  unfold decodeFamilyE
  split
  iterate 2 · next hkk => exact encodeXKK_of_fields ⟨hop, hkk⟩
  · rfl

theorem decodeFamilyF_readFrom {w : Word} (hop : fieldOp w = 0xF#4) : ReadFrom w (decodeFamilyF w) := by
  unfold decodeFamilyF
  split
  iterate 9 · next hkk => exact encodeXKK_of_fields ⟨hop, hkk⟩
  · rfl

/-- Whatever the decoder answers, by the top nibble, no bit of the word is lost (R71, R72, R74, R77). -/
theorem decode_readFrom (w : Word) : ReadFrom w (decode w) := by
  unfold decode
  split
  · exact decodeFamily0_readFrom w
  iterate 2 · next hop => exact encodeNNN_of_fieldOp hop
  iterate 2 · next hop => exact encodeXKK_of_fieldOp hop
  · next hop => exact decodeFamily5_readFrom hop
  iterate 2 · next hop => exact encodeXKK_of_fieldOp hop
  · next hop => exact decodeFamily8_readFrom hop
  · next hop => exact decodeFamily9_readFrom hop
  iterate 2 · next hop => exact encodeNNN_of_fieldOp hop
  · next hop => exact encodeXKK_of_fieldOp hop
  · next hop => exact encodeXYN_of_fieldOp hop
  · next hop => exact decodeFamilyE_readFrom hop
  · have hop : fieldOp w = 0xF#4 := by simp only [imp_false] at *; bv_omega
    exact decodeFamilyF_readFrom hop

/-- Decoding to i is being the word of i (R71, R72, R75). -/
theorem decode_eq_instr_iff {w : Word} {i : Instr} : decode w = .instr i ↔ encode i = w := by
  constructor
  · intro h
    have := decode_readFrom w
    rwa [h] at this
  · rintro rfl
    exact decode_encode i

/-- A rejection carries the raw word (R77). -/
theorem eq_of_decode_eq_unknown {w v : Word} (h : decode w = .unknownInstruction v) : v = w := by
  have := decode_readFrom w
  rwa [h] at this

/-! ## The masks of the opcode map (R75): which fields each one compares -/

theorem and_FFFF_eq_iff (w v : Word) : w &&& 0xFFFF = v ↔ v = w := by
  have hmask : w &&& 0xFFFF = w := BitVec.and_allOnes
  rw [hmask, eq_comm]

theorem and_F000_eq_iff (w : Word) (op : BitVec 4) : w &&& 0xF000 = encodeNNN op 0 ↔ fieldOp w = op := by
  have hmask : w &&& 0xF000 = encodeNNN (fieldOp w) 0 := by
    simpa [matchesRow] using Laws.EncodesItsRow.mask_op w _ rfl
  rw [hmask]
  constructor
  · intro h
    simpa using congrArg fieldOp h
  · rintro rfl
    rfl

theorem and_F00F_eq_iff (w : Word) (op n : BitVec 4) :
    w &&& 0xF00F = encodeXYN op 0 0 n ↔ fieldOp w = op ∧ fieldN w = n := by
  have hmask : w &&& 0xF00F = encodeXYN (fieldOp w) 0 0 (fieldN w) := by
    simpa [matchesRow] using Laws.EncodesItsRow.mask_op_n w _ rfl
  rw [hmask]
  constructor
  · intro h
    exact ⟨by simpa using congrArg fieldOp h, by simpa using congrArg fieldN h⟩
  · rintro ⟨rfl, rfl⟩
    rfl

theorem and_F0FF_eq_iff (w : Word) (op : BitVec 4) (kk : Byte) :
    w &&& 0xF0FF = encodeXKK op 0 kk ↔ fieldOp w = op ∧ fieldKK w = kk := by
  have hmask : w &&& 0xF0FF = encodeXKK (fieldOp w) 0 (fieldKK w) := by
    simpa [matchesRow] using Laws.EncodesItsRow.mask_op_kk w _ rfl
  rw [hmask]
  constructor
  · intro h
    exact ⟨by simpa using congrArg fieldOp h, by simpa using congrArg fieldKK h⟩
  · rintro ⟨rfl, rfl⟩
    rfl

/-! ## The rows of the opcode map (R75) -/

open Laws.EncodesItsRow in
/-- Every instruction's word stands in its own row. -/
theorem encode_in_its_row : ∀ i : Instr, Statement i
  | .cls => cls
  | .ret => ret
  | .jp nnn => jp nnn
  | .call nnn => call nnn
  | .seImm x kk => seImm x kk
  | .sneImm x kk => sneImm x kk
  | .seReg x y => seReg x y
  | .ldImm x kk => ldImm x kk
  | .addImm x kk => addImm x kk
  | .ldReg x y => ldReg x y
  | .orReg x y => orReg x y
  | .andReg x y => andReg x y
  | .xorReg x y => xorReg x y
  | .addReg x y => addReg x y
  | .subReg x y => subReg x y
  | .shrReg x y => shrReg x y
  | .subnReg x y => subnReg x y
  | .shlReg x y => shlReg x y
  | .sneReg x y => sneReg x y
  | .ldI nnn => ldI nnn
  | .jpV0 nnn => jpV0 nnn
  | .rnd x kk => rnd x kk
  | .drw x y n => drw x y n
  | .skp x => skp x
  | .sknp x => sknp x
  | .ldVxDt x => ldVxDt x
  | .ldVxK x => ldVxK x
  | .ldDtVx x => ldDtVx x
  | .ldStVx x => ldStVx x
  | .addI x => addI x
  | .ldF x => ldF x
  | .ldB x => ldB x
  | .storeRegs x => storeRegs x
  | .loadRegs x => loadRegs x

/-- A word that matches row k is the word of the row's instruction, its operands read from the word's fields. -/
theorem exists_encode_of_matches : ∀ {k : Nat} {row : Word × Word}, opcodeMap[k]? = some row →
    ∀ {w : Word}, w &&& row.2 = row.1 → ∃ i, encode i = w ∧ rowIndex i = k
  | 0, _, rfl, w, h => ⟨.cls, (and_FFFF_eq_iff w _).1 h, rfl⟩
  | 1, _, rfl, w, h => ⟨.ret, (and_FFFF_eq_iff w _).1 h, rfl⟩
  | 2, _, rfl, w, h => ⟨.jp (fieldNNN w), encodeNNN_of_fieldOp ((and_F000_eq_iff w _).1 h), rfl⟩
  | 3, _, rfl, w, h => ⟨.call (fieldNNN w), encodeNNN_of_fieldOp ((and_F000_eq_iff w _).1 h), rfl⟩
  | 4, _, rfl, w, h => ⟨.seImm (fieldX w) (fieldKK w), encodeXKK_of_fieldOp ((and_F000_eq_iff w _).1 h), rfl⟩
  | 5, _, rfl, w, h => ⟨.sneImm (fieldX w) (fieldKK w), encodeXKK_of_fieldOp ((and_F000_eq_iff w _).1 h), rfl⟩
  | 6, _, rfl, w, h => ⟨.seReg (fieldX w) (fieldY w), encodeXYN_of_fields ((and_F00F_eq_iff w _ _).1 h), rfl⟩
  | 7, _, rfl, w, h => ⟨.ldImm (fieldX w) (fieldKK w), encodeXKK_of_fieldOp ((and_F000_eq_iff w _).1 h), rfl⟩
  | 8, _, rfl, w, h => ⟨.addImm (fieldX w) (fieldKK w), encodeXKK_of_fieldOp ((and_F000_eq_iff w _).1 h), rfl⟩
  | 9, _, rfl, w, h => ⟨.ldReg (fieldX w) (fieldY w), encodeXYN_of_fields ((and_F00F_eq_iff w _ _).1 h), rfl⟩
  | 10, _, rfl, w, h => ⟨.orReg (fieldX w) (fieldY w), encodeXYN_of_fields ((and_F00F_eq_iff w _ _).1 h), rfl⟩
  | 11, _, rfl, w, h => ⟨.andReg (fieldX w) (fieldY w), encodeXYN_of_fields ((and_F00F_eq_iff w _ _).1 h), rfl⟩
  | 12, _, rfl, w, h => ⟨.xorReg (fieldX w) (fieldY w), encodeXYN_of_fields ((and_F00F_eq_iff w _ _).1 h), rfl⟩
  | 13, _, rfl, w, h => ⟨.addReg (fieldX w) (fieldY w), encodeXYN_of_fields ((and_F00F_eq_iff w _ _).1 h), rfl⟩
  | 14, _, rfl, w, h => ⟨.subReg (fieldX w) (fieldY w), encodeXYN_of_fields ((and_F00F_eq_iff w _ _).1 h), rfl⟩
  | 15, _, rfl, w, h => ⟨.shrReg (fieldX w) (fieldY w), encodeXYN_of_fields ((and_F00F_eq_iff w _ _).1 h), rfl⟩
  | 16, _, rfl, w, h => ⟨.subnReg (fieldX w) (fieldY w), encodeXYN_of_fields ((and_F00F_eq_iff w _ _).1 h), rfl⟩
  | 17, _, rfl, w, h => ⟨.shlReg (fieldX w) (fieldY w), encodeXYN_of_fields ((and_F00F_eq_iff w _ _).1 h), rfl⟩
  | 18, _, rfl, w, h => ⟨.sneReg (fieldX w) (fieldY w), encodeXYN_of_fields ((and_F00F_eq_iff w _ _).1 h), rfl⟩
  | 19, _, rfl, w, h => ⟨.ldI (fieldNNN w), encodeNNN_of_fieldOp ((and_F000_eq_iff w _).1 h), rfl⟩
  | 20, _, rfl, w, h => ⟨.jpV0 (fieldNNN w), encodeNNN_of_fieldOp ((and_F000_eq_iff w _).1 h), rfl⟩
  | 21, _, rfl, w, h => ⟨.rnd (fieldX w) (fieldKK w), encodeXKK_of_fieldOp ((and_F000_eq_iff w _).1 h), rfl⟩
  | 22, _, rfl, w, h => ⟨.drw (fieldX w) (fieldY w) (fieldN w),
    encodeXYN_of_fieldOp ((and_F000_eq_iff w _).1 h), rfl⟩
  | 23, _, rfl, w, h => ⟨.skp (fieldX w), encodeXKK_of_fields ((and_F0FF_eq_iff w _ _).1 h), rfl⟩
  | 24, _, rfl, w, h => ⟨.sknp (fieldX w), encodeXKK_of_fields ((and_F0FF_eq_iff w _ _).1 h), rfl⟩
  | 25, _, rfl, w, h => ⟨.ldVxDt (fieldX w), encodeXKK_of_fields ((and_F0FF_eq_iff w _ _).1 h), rfl⟩
  | 26, _, rfl, w, h => ⟨.ldVxK (fieldX w), encodeXKK_of_fields ((and_F0FF_eq_iff w _ _).1 h), rfl⟩
  | 27, _, rfl, w, h => ⟨.ldDtVx (fieldX w), encodeXKK_of_fields ((and_F0FF_eq_iff w _ _).1 h), rfl⟩
  | 28, _, rfl, w, h => ⟨.ldStVx (fieldX w), encodeXKK_of_fields ((and_F0FF_eq_iff w _ _).1 h), rfl⟩
  | 29, _, rfl, w, h => ⟨.addI (fieldX w), encodeXKK_of_fields ((and_F0FF_eq_iff w _ _).1 h), rfl⟩
  | 30, _, rfl, w, h => ⟨.ldF (fieldX w), encodeXKK_of_fields ((and_F0FF_eq_iff w _ _).1 h), rfl⟩
  | 31, _, rfl, w, h => ⟨.ldB (fieldX w), encodeXKK_of_fields ((and_F0FF_eq_iff w _ _).1 h), rfl⟩
  | 32, _, rfl, w, h => ⟨.storeRegs (fieldX w), encodeXKK_of_fields ((and_F0FF_eq_iff w _ _).1 h), rfl⟩
  | 33, _, rfl, w, h => ⟨.loadRegs (fieldX w), encodeXKK_of_fields ((and_F0FF_eq_iff w _ _).1 h), rfl⟩

/-- The words of row k are the words of the instructions placed there (R75). -/
theorem matches_row_iff {k : Nat} {row : Word × Word} (hrow : opcodeMap[k]? = some row) (w : Word) :
    w &&& row.2 = row.1 ↔ ∃ i, encode i = w ∧ rowIndex i = k := by
  constructor
  · exact exists_encode_of_matches hrow
  · rintro ⟨i, rfl, rfl⟩
    obtain ⟨row', hrow', hmatch⟩ := encode_in_its_row i
    obtain rfl : row = row' := Option.some.inj (hrow.symm.trans hrow')
    simpa [matchesRow] using hmatch

/-- A word matches some row exactly when it is the word of some instruction (R75). -/
theorem exists_matching_row_iff (w : Word) :
    (∃ row ∈ opcodeMap, w &&& row.2 = row.1) ↔ ∃ i, encode i = w := by
  constructor
  · rintro ⟨row, hmem, hmatch⟩
    obtain ⟨k, hrow⟩ := List.mem_iff_getElem?.1 hmem
    obtain ⟨i, hi, -⟩ := (matches_row_iff hrow w).1 hmatch
    exact ⟨i, hi⟩
  · rintro ⟨i, rfl⟩
    obtain ⟨row, hrow, hmatch⟩ := encode_in_its_row i
    exact ⟨row, List.mem_of_getElem? hrow, by simpa [matchesRow] using hmatch⟩

/-! ## The obligations -/

/-- Settles O1: the decoder sees the fields the encoder laid out. -/
theorem decodeEncodeRoundTrip : Obligations.DecodeEncodeRoundTrip := decode_encode

/-- Settles O2: every arm of the decoder puts all bits of the word into the instruction. -/
theorem encodeDecodeWord : Obligations.EncodeDecodeWord := fun _ _ => decode_eq_instr_iff.1

/-- Settles O3: the words of a row are the words of its instructions, which are the words that decode to them. -/
theorem decodeMatchesExactlyItsRow : Obligations.DecodeMatchesExactlyItsRow := by
  intro w k row hrow
  simp only [decode_eq_instr_iff]
  exact matches_row_iff hrow w

/-- Settles O4: a word is rejected exactly when it is the word of no instruction. -/
theorem illegalWordsAreUnknown : Obligations.IllegalWordsAreUnknown := by
  intro w v
  constructor
  · intro hunknown
    refine ⟨eq_of_decode_eq_unknown hunknown, fun row hmem hmatch => ?_⟩
    obtain ⟨i, rfl⟩ := (exists_matching_row_iff w).1 ⟨row, hmem, hmatch⟩
    rw [decode_encode] at hunknown
    cases hunknown
  · rintro ⟨rfl, hnone⟩
    cases hdec : decode v with
    | instr i =>
      obtain ⟨row, hmem, hmatch⟩ := (exists_matching_row_iff v).2 ⟨i, decode_eq_instr_iff.1 hdec⟩
      exact absurd hmatch (hnone row hmem)
    | unknownInstruction u => rw [eq_of_decode_eq_unknown hdec]

/-- Settles O5: the decoder evaluates each of these words (R75, `95_test_vectors.md`). -/
theorem specWordsDecode : Obligations.SpecWordsDecode := by
  unfold Obligations.SpecWordsDecode
  decide

end Sys2Proof
end

section
/-! PROOFS. Jumps, calls, returns and skips, `40_control_flow.md` (rules R100 to R102, R104 to R108), and the key skips
of `44_keypad_timers.md` (rules R180, R181). -/

namespace Sys2Proof.Machine

open Sys2Proof.Safety

/-! ## Rows of the opcode map under the mask 0xF000 (R72, R75) -/

theorem encodeNNN_fieldNNN_eq_iff (w : Word) (op : BitVec 4) : encodeNNN op (fieldNNN w) = w ↔ fieldOp w = op := by
  constructor
  · intro h
    simpa using (congrArg fieldOp h).symm
  · exact encodeNNN_of_fieldOp

theorem encodeXKK_fieldX_fieldKK_eq_iff (w : Word) (op : BitVec 4) :
    encodeXKK op (fieldX w) (fieldKK w) = w ↔ fieldOp w = op := by
  constructor
  · intro h
    simpa using (congrArg fieldOp h).symm
  · exact encodeXKK_of_fieldOp

/-- A form of layout NNN with its operand read from the word is a row under the mask 0xF000. -/
theorem encodedAs_of_layoutNNN {op : BitVec 4} {f : Word → Instr}
    (hf : ∀ w, encode (f w) = encodeNNN op (fieldNNN w)) : EncodedAs (encodeNNN op 0) 0xF000 f := by
  intro w
  rw [decode_eq_instr_iff, hf, and_F000_eq_iff, encodeNNN_fieldNNN_eq_iff]

/-- A form of layout XKK with its operands read from the word is a row under the mask 0xF000. -/
theorem encodedAs_of_layoutXKK {op : BitVec 4} {f : Word → Instr}
    (hf : ∀ w, encode (f w) = encodeXKK op (fieldX w) (fieldKK w)) : EncodedAs (encodeNNN op 0) 0xF000 f := by
  intro w
  rw [decode_eq_instr_iff, hf, and_F000_eq_iff, encodeXKK_fieldX_fieldKK_eq_iff]

/-! ## What a call, a return and a key skip answer -/

/-- An absolute address is its operand as a number (R73). -/
@[simp] theorem addressOf_toNat (nnn : BitVec 12) : (addressOf nnn).toNat = nnn.toNat :=
  BitVec.toNat_setWidth_of_le (by decide)

/-- R101: a call whose push succeeds. -/
theorem exec_call_of_push {s u : State} (nnn : BitVec 12) (hpush : s.pushReturn = some u) :
    exec (.call nnn) s = .next (u.setPc (addressOf nnn)) := by
  simp only [exec, execCall, hpush]

/-- R102: a return is a pop. -/
theorem exec_ret (s : State) : exec .ret s = .next s.popReturn := rfl

theorem inNibble_iff (b : Byte) : inNibble b = true ↔ b.toNat ≤ 15 := decide_eq_true_iff

/-- The key named by a register value at most 15 is the bit of KEYS at that value (R11, R180). -/
theorem State.isKeyDown_keyCode (s : State) {b : Byte} (hb : b.toNat ≤ 15) :
    s.isKeyDown (keyCode b) = s.keys.getLsbD b.toNat := by
  have hcode : (keyCode b).toNat = b.toNat := by
    rw [keyCode, BitVec.toNat_setWidth, Nat.mod_eq_of_lt (by omega)]
  rw [State.isKeyDown, hcode]

theorem exec_skp_of_le {s : State} {x : Reg} (hx : (s.getV x).toNat ≤ 15) :
    exec (.skp x) s = .next (skipIf (s.keys.getLsbD (s.getV x).toNat) s) := by
  simp only [exec, execSkp, (inNibble_iff _).2 hx, if_true, s.isKeyDown_keyCode hx]

theorem exec_sknp_of_le {s : State} {x : Reg} (hx : (s.getV x).toNat ≤ 15) :
    exec (.sknp x) s = .next (skipIf (!s.keys.getLsbD (s.getV x).toNat) s) := by
  simp only [exec, execSknp, (inNibble_iff _).2 hx, if_true, s.isKeyDown_keyCode hx]

/-- An outcome that is a skip on c, where c says that P holds: PC is 2 further exactly when P holds, VF and RUN are as
before (R108). -/
theorem exists_next_skipIf {r : Result} {s : State} {c : Bool} {P : Prop} [Decidable P]
    (hr : r = .next (skipIf c s)) (hc : c = true ↔ P) :
    ∃ t, r = .next t ∧ t.pc = (if P then s.pc + 2#16 else s.pc) ∧ t.getV vf = s.getV vf ∧ t.run = s.run := by
  refine ⟨_, hr, ?_, ?_, ?_⟩ <;> rw [skipIf_eq]
  · exact if_congr hc rfl rfl
  · rfl

/-! ## Call nests (R101, R102) -/

/-- t is s but for the dead slots of the call stack, those at SP and above (R28). -/
def SameButDeadSlots (s t : State) : Prop :=
  ∃ k : Vector Word 16, t = { s with stack := k } ∧ ∀ j, (hj : j < s.sp.val) →
    k[j]'(by have := s.sp.isLt; omega) = s.stack[j]'(by have := s.sp.isLt; omega)

theorem SameButDeadSlots.refl (s : State) : SameButDeadSlots s s := ⟨s.stack, rfl, fun _ _ => rfl⟩

/-- A pop undoes a push and a jump, also when slots above the pushed one were written in between. -/
theorem SameButDeadSlots.popReturn {s u v : State} {a : Word} (hpush : s.pushReturn = some u)
    (hv : SameButDeadSlots (u.setPc a) v) : SameButDeadSlots s v.popReturn := by
  obtain ⟨hsp, rfl⟩ := s.pushReturn_eq_some hpush
  obtain ⟨k, rfl, hlive⟩ := hv
  have hsaved : k[s.sp.val] = s.pc := by
    rw [hlive s.sp.val (Nat.lt_succ_self _)]
    exact Vector.getElem_set_self hsp
  have hkept : ∀ j, (hj : j < s.sp.val) → k[j] = s.stack[j] := by
    intro j hj
    rw [hlive j (Nat.lt_succ_of_lt hj)]
    exact Vector.getElem_set_ne hsp (by omega) (by omega)
  refine ⟨k, ?_, hkept⟩
  rw [State.popReturn_pos _ (Nat.succ_pos _), ← hsaved]
  rfl

/-- Execution of a list up to a next state goes on with what is appended. -/
theorem execAll_append {is : List Instr} {s t : State} (h : execAll is s = .next t) (js : List Instr) :
    execAll (is ++ js) s = execAll js t := by
  induction is generalizing s with
  | nil => cases h; rfl
  | cons i is ih =>
    simp only [List.cons_append, execAll] at h ⊢
    cases hi : exec i s with
    | next u => rw [hi] at h; exact ih h
    | fault f => rw [hi] at h; cases h
    | refused r => rw [hi] at h; cases h

/-- A call whose push succeeds, then instructions that restore the called state but for dead slots, then a return. -/
theorem execAll_call_ret {s u v : State} (nnn : BitVec 12) {is : List Instr} (hpush : s.pushReturn = some u)
    (hbody : execAll is (u.setPc (addressOf nnn)) = .next v) :
    execAll (.call nnn :: (is ++ [.ret])) s = .next v.popReturn := by
  simp only [execAll, exec_call_of_push nnn hpush, execAll_append hbody, exec_ret]

/-- A nest of n + 1 calls and returns is a call, a nest of n, and a return. -/
theorem callNest_cons (nnn : BitVec 12) (targets : List (BitVec 12)) :
    (nnn :: targets).map Instr.call ++ List.replicate (nnn :: targets).length Instr.ret =
      .call nnn :: (targets.map .call ++ List.replicate targets.length .ret ++ [.ret]) := by
  simp [List.replicate_succ']

/-- Induction over the nest: the outer call's slot is live, so kept, while the inner nest runs. -/
theorem execAll_callNest (targets : List (BitVec 12)) (s : State) (hroom : s.sp.val + targets.length ≤ 16) :
    ∃ t, execAll (targets.map .call ++ List.replicate targets.length .ret) s = .next t ∧ SameButDeadSlots s t := by
  induction targets generalizing s with
  | nil => exact ⟨s, rfl, .refl s⟩
  | cons nnn targets ih =>
    rw [List.length_cons] at hroom
    obtain ⟨u, hpush, husp⟩ : ∃ u, s.pushReturn = some u ∧ u.sp.val = s.sp.val + 1 :=
      ⟨_, s.pushReturn_some (by omega), rfl⟩
    obtain ⟨v, hbody, hv⟩ := ih (u.setPc (addressOf nnn)) (by rw [State.setPc_sp]; omega)
    refine ⟨v.popReturn, ?_, hv.popReturn hpush⟩
    rw [callNest_cons]
    exact execAll_call_ret nnn hpush hbody

/-! ## The obligations -/

/-- Settles O20: the nest restores the state but for the dead slots. -/
theorem callsThenReturnsRestore : Obligations.CallsThenReturnsRestore := by
  intro targets s hroom
  obtain ⟨_, hexec, k, rfl, hlive⟩ := execAll_callNest targets s hroom
  exact ⟨_, hexec, rfl, hlive⟩

/-- Settles O16: the jump writes PC only. -/
theorem jumpSetsPc : Obligations.JumpSetsPc :=
  ⟨encodedAs_of_layoutNNN (op := 0x1#4) fun _ => rfl,
    fun nnn s => ⟨s.setPc (addressOf nnn), rfl, addressOf_toNat nnn, rfl, rfl, rfl, rfl⟩⟩

/-- Settles O19: by whether the stack is empty. -/
theorem returnPopsOrDoesNothing : Obligations.ReturnPopsOrDoesNothing := by
  refine ⟨decode_encode .ret, fun s => ⟨fun hlive => ?live, fun hempty => ?empty⟩⟩
  case live =>
    refine ⟨_, (exec_ret s).trans (congrArg _ (s.popReturn_pos hlive)), ?_, rfl, rfl, rfl, rfl⟩
    exact Nat.sub_add_cancel hlive
  case empty => rw [exec_ret, s.popReturn_zero hempty]

/-- Settles O21: each form answers a skip on its own condition. -/
theorem skipsAddTwo : Obligations.SkipsAddTwo := by
  refine ⟨encodedAs_of_layoutXKK (op := 0x3#4) fun _ => rfl, encodedAs_of_layoutXKK (op := 0x4#4) fun _ => rfl,
    fun s x y kk => ⟨?seImm, ?sneImm, ?seReg, ?sneReg, fun hx => ?skp, fun hx => ?sknp⟩⟩
  case seImm | seReg => exact exists_next_skipIf rfl beq_iff_eq
  case sneImm | sneReg => exact exists_next_skipIf rfl bne_iff_ne
  case skp => exact exists_next_skipIf (exec_skp_of_le hx) .rfl
  case sknp =>
    simp only [← ite_not (s.keys.getLsbD _ = true)]
    exact exists_next_skipIf (exec_sknp_of_le hx) Bool.not_iff_not

end Sys2Proof.Machine
end

section
/-! PROOFS. Register loads, the add of an immediate and the random byte, `41_alu.md` (rules R122 to R124, R133), and the
read of DT of `44_keypad_timers.md` (rule R183). -/

namespace Sys2Proof.Machine

open Sys2Proof.Safety

/-! ## Rows of the opcode map under the mask 0xF0FF (R72, R75) -/

theorem encodeXKK_fieldX_eq_iff (w : Word) (op : BitVec 4) (kk : Byte) :
    encodeXKK op (fieldX w) kk = w ↔ fieldOp w = op ∧ fieldKK w = kk := by
  constructor
  · intro h
    exact ⟨by simpa using (congrArg fieldOp h).symm, by simpa using (congrArg fieldKK h).symm⟩
  · exact encodeXKK_of_fields

/-- A form of layout XKK with a fixed low byte and X read from the word is a row under the mask 0xF0FF. -/
theorem encodedAs_of_layoutX {op : BitVec 4} {kk : Byte} {f : Word → Instr}
    (hf : ∀ w, encode (f w) = encodeXKK op (fieldX w) kk) : EncodedAs (encodeXKK op 0 kk) 0xF0FF f := by
  intro w
  rw [decode_eq_instr_iff, hf, and_F0FF_eq_iff, encodeXKK_fieldX_eq_iff]

/-! ## What a write of one register answers (R20) -/

/-- VF changes only where X = F names it (R20). -/
theorem State.getV_vf_setV (s : State) {x : Reg} (b : Byte) (hx : x ≠ vf) : (s.setV x b).getV vf = s.getV vf :=
  s.getV_setV_other b hx.symm

theorem exec_ldImm (x : Reg) (kk : Byte) (s : State) : exec (.ldImm x kk) s = .next (s.setV x kk) := rfl

theorem exec_addImm (x : Reg) (kk : Byte) (s : State) : exec (.addImm x kk) s = .next (s.setV x (s.getV x + kk)) := rfl

theorem exec_ldReg (x y : Reg) (s : State) : exec (.ldReg x y) s = .next (s.setV x (s.getV y)) := rfl

theorem exec_ldVxDt (x : Reg) (s : State) : exec (.ldVxDt x) s = .next (s.setV x s.dt) := rfl

theorem exec_rnd (x : Reg) (kk : Byte) (s : State) :
    exec (.rnd x kk) s = .next (s.drawn.setV x (Config.nextByte s.draws &&& kk)) := rfl

/-- A byte masked by m has no bit outside m. -/
theorem and_and_not_self (b m : Byte) : b &&& m &&& ~~~m = 0 := by
  rw [BitVec.and_assoc, BitVec.and_not_self]
  exact BitVec.and_zero

/-! ## The obligations -/

/-- Settles O23: each load is one register write. -/
theorem registerLoads : Obligations.RegisterLoads := by
  refine ⟨encodedAs_of_layoutXKK (op := 0x6#4) fun _ => rfl,
    encodedAs_of_layoutX (op := 0xF#4) (kk := 0x07#8) fun _ => rfl, fun s x y kk => ⟨?ldImm, ?ldReg, ?ldVxDt⟩⟩
  case ldImm => exact ⟨_, exec_ldImm x kk s, s.getV_setV_self x _, s.getV_vf_setV _, rfl⟩
  case ldReg => exact ⟨_, exec_ldReg x y s, s.getV_setV_self x _, s.getV_vf_setV _, rfl⟩
  case ldVxDt => exact ⟨_, exec_ldVxDt x s, s.getV_setV_self x _, s.getV_vf_setV _, rfl, rfl, rfl⟩

/-- Settles O24: the one register written holds the byte sum, which is the sum modulo 256. -/
theorem addImmediateWraps : Obligations.AddImmediateWraps := by
  refine ⟨encodedAs_of_layoutXKK (op := 0x7#4) fun _ => rfl,
    fun s x kk => ⟨_, exec_addImm x kk s, ?sum, s.getV_vf_setV _, rfl⟩⟩
  case sum => rw [State.getV_setV_self, BitVec.toNat_add]

/-- Settles O29: the one register written holds the masked draw, for any byte drawn. -/
theorem randomByteIsMasked : Obligations.RandomByteIsMasked := by
  intro s x kk
  refine ⟨_, exec_rnd x kk s, s.drawn.getV_setV_self x _, ?masked, fun r hr => ?others, rfl⟩
  case masked => rw [State.getV_setV_self, and_and_not_self]
  case others => rw [State.getV_setV_other _ _ hr, State.drawn_getV]

end Sys2Proof.Machine
end

section
/-! PROOFS. The load of I and the store of the decimal digits, `42_index_memory.md` (rules R140, R143), over the span
check of `20_memory.md` (rules R53, R55). -/

namespace Sys2Proof.Machine

open Sys2Proof.Safety

/-! ## The span check (R53, R55) -/

theorem spanAddressable_iff_addressable (a n : Nat) :
    spanAddressable a n = true ↔ ∀ k, k < n → Addressable (a + k) := by
  simp only [spanAddressable_iff, isAddressable_iff, Addressable]

theorem spanAddressable_eq_false_iff (a n : Nat) :
    spanAddressable a n = false ↔ ∃ k, k < n ∧ ¬Addressable (a + k) := by
  simp only [← Bool.not_eq_true, spanAddressable_iff_addressable, not_forall, exists_prop]

/-! ## The decimal digits (R143) -/

/-- Each digit of a byte is below 10, so a byte holds it whole. -/
theorem map_toNat_bcdDigits (b : Byte) :
    (bcdDigits b).map BitVec.toNat = [b.toNat / 100, b.toNat / 10 % 10, b.toNat % 10] := by
  have hb : b.toNat < 256 := b.isLt
  simp (disch := omega) only [bcdDigits, List.map_cons, List.map_nil, BitVec.toNat_ofNat, Nat.mod_eq_of_lt]

theorem State.toNat_read_store_bcdDigits (s : State) (b : Byte) {a k : Nat} (hwf : s.ramWf = true)
    (ha : a + 3 ≤ 4096) (hk : k < 3) :
    ((s.store a (bcdDigits b)).read (a + k)).toNat = [b.toNat / 100, b.toNat / 10 % 10, b.toNat % 10][k] := by
  rw [s.read_store_inside hwf ha hk]
  simp only [← map_toNat_bcdDigits]
  exact (List.getElem_map BitVec.toNat).symm

/-! ## What FX33 answers (R143, R204) -/

theorem exec_ldB_of_span {s : State} {x : Reg} (h : spanAddressable s.i.toNat 3 = true) :
    exec (.ldB x) s = .next (s.store s.i.toNat (bcdDigits (s.getV x))) := by
  have hwrite := (s.memWrite_eq_some_iff _ s.i.toNat (bcdDigits (s.getV x))).2 ⟨h, rfl⟩
  simp only [exec, execLdB, State.spanBase, hwrite]

theorem exec_ldB_of_not_span {s : State} {x : Reg} (h : spanAddressable s.i.toNat 3 = false) :
    exec (.ldB x) s = raise .memoryProtectionViolation (.ldB x) s := by
  have hrefused := (s.memWrite_eq_none_iff s.i.toNat (bcdDigits (s.getV x))).2 h
  simp only [exec, execLdB, State.spanBase, hrefused]

/-! ## The obligations -/

/-- Settles O33: by whether the three addresses pass the span check. -/
theorem bcdStoresDigits : Obligations.BcdStoresDigits := by
  refine ⟨encodedAs_of_layoutX (op := 0xF#4) (kk := 0x33#8) fun _ => rfl,
    fun s x => ⟨fun hwf haddr => ?stored, fun hbad => ?refused⟩⟩
  case stored =>
    have hspan := (spanAddressable_iff_addressable s.i.toNat 3).2 haddr
    have hinside : s.i.toNat + 3 ≤ 4096 := (spanAddressable_inside hspan (by decide)).trans (by decide)
    have hdigit {k : Nat} (hk : k < 3) := s.toNat_read_store_bcdDigits (s.getV x) hwf hinside hk
    exact ⟨_, exec_ldB_of_span hspan, hdigit (k := 0) (by decide), hdigit (k := 1) (by decide),
      hdigit (k := 2) (by decide), rfl, rfl, rfl⟩
  case refused =>
    exact ⟨_, _, exec_ldB_of_not_span ((spanAddressable_eq_false_iff s.i.toNat 3).2 hbad), rfl, rfl, rfl⟩

/-- Settles O30: the load writes I only. -/
theorem loadIndexSetsI : Obligations.LoadIndexSetsI :=
  ⟨encodedAs_of_layoutNNN (op := 0xA#4) fun _ => rfl,
    fun s nnn => ⟨s.setI (addressOf nnn), rfl, addressOf_toNat nnn, rfl, rfl⟩⟩

end Sys2Proof.Machine
end

section
/-! PROOFS. The clear of the screen, `43_display.md` (rule R160). -/

namespace Sys2Proof.Machine

open Sys2Proof.Safety

/-! ## What 00E0 answers (R160) -/

/-- R160: the framebuffer is replaced by the blank one. -/
theorem exec_cls (s : State) : exec .cls s = .next (s.setFb blankFrame) := rfl

/-- The host sees every pixel of a blank framebuffer off. -/
theorem State.render_setFb_blankFrame (s : State) (x y : Nat) : (s.setFb blankFrame).render x y = false :=
  pixel_blankFrame (pixelIndex x y)

/-! ## The obligations -/

/-- Settles O40: the blank frame has no pixel on, and the framebuffer alone is written. -/
theorem clsBlanksScreen : Obligations.ClsBlanksScreen :=
  ⟨decode_encode .cls,
    fun s => ⟨_, exec_cls s, s.render_setFb_blankFrame, s.setFb_getV blankFrame vf, s.setFb_run blankFrame⟩⟩

end Sys2Proof.Machine
end

section
/-! PROOFS. The steps of the agents, `60_exceptions.md` (rules R221, R230, R231), and the call, `40_control_flow.md`
(rules R101, R203). -/

namespace Sys2Proof.Machine

/-! ## The CPU step by the run state (R37) -/

/-- R230: the listed move of a running CPU closes the load port and fetches. -/
theorem step_of_running {s : State} {rest : List Move} (hmove : s.schedule = .instrTick :: rest)
    (hrun : s.run = .running) : step s = runStep { s with schedule := rest, loadOpen := false } := by
  simp only [step_of_cons hmove, moveStep, cpuStep, hrun, State.startRun]

/-- R231: the listed move of a waiting CPU polls the keys. -/
theorem step_of_waitKey {s : State} {x : Reg} {rest : List Move} (hmove : s.schedule = .instrTick :: rest)
    (hwait : s.run = .waitKey x) : step s = waitStep x { s with schedule := rest } := by
  simp only [step_of_cons hmove, moveStep, cpuStep, hwait]

/-- R182, R231: no key down. -/
theorem waitStep_of_no_key {s : State} {x : Reg} (h : s.keys = 0#16) : waitStep x s = .next s := by
  simp only [waitStep, s.firstKeyDown_none_iff.2 h]

/-- R182, R231: with keys down, one of them is stored and the CPU runs again. -/
theorem waitStep_of_key {s : State} {x : Reg} (h : s.keys ≠ 0#16) :
    ∃ k, s.isKeyDown k = true ∧ waitStep x s = .next ((storeKey x k s).setRun .running) := by
  cases hk : s.firstKeyDown with
  | none => exact absurd (s.firstKeyDown_none_iff.1 hk) h
  | some k => exact ⟨k, s.firstKeyDown_isKeyDown hk, by simp only [waitStep, hk]⟩

/-- A key code as a register value is the code as a number (R182). -/
theorem byteOfKey_toNat (k : Key) : (byteOfKey k).toNat = k.toNat :=
  BitVec.toNat_setWidth_of_le (by decide)

/-- R182: the stored code is read back from V[x], and the other registers are as before. -/
theorem storeKey_getV (x r : Reg) (k : Key) (s : State) :
    (storeKey x k s).getV r = if r = x then byteOfKey k else s.getV r :=
  s.keyPicked.getV_setV x r (byteOfKey k)

/-! ## The timer ticks (R221) -/

/-- The value a tick leaves in a timer that held b. -/
def tickDown (halted : Bool) (b : Byte) : Byte := if b != 0x00#8 && !halted then b - 1#8 else b

/-- R221: 1 less, and no wrap, when the timer is not 0 and the CORE is not halted. -/
theorem tickDown_toNat (halted : Bool) (b : Byte) :
    (tickDown halted b).toNat = if b.toNat ≠ 0 ∧ halted = false then b.toNat - 1 else b.toNat := by
  have henabled : (b != 0x00#8 && !halted) = true ↔ b.toNat ≠ 0 ∧ halted = false := by
    simp [← BitVec.toNat_inj]
  rw [tickDown, apply_ite BitVec.toNat]
  refine ite_congr (propext henabled) (fun ⟨hb, _⟩ => ?_) fun _ => rfl
  exact BitVec.toNat_sub_of_le (BitVec.le_def.2 (Nat.one_le_iff_ne_zero.2 hb))

theorem dtTickStep_eq (s : State) : dtTickStep s = .next (s.setDt (tickDown s.isHalted s.dt)) := by
  rw [dtTickStep, State.dtRunning, tickDown]
  split <;> rfl

theorem stTickStep_eq (s : State) : stTickStep s = .next (s.setSt (tickDown s.isHalted s.st)) := by
  rw [stTickStep, State.stRunning, tickDown]
  split <;> rfl

/-! ## The call (R101, R203) -/

/-- R203: a call with a full stack. -/
theorem exec_call_of_full {s : State} (nnn : BitVec 12) (h : s.sp.val = 16) :
    exec (.call nnn) s = raise .stackOverflow (.call nnn) s := by
  simp only [exec, execCall, s.pushReturn_none h]

/-! ## The obligations -/

/-- Settles O6: a listed CPU move fetches, decodes and executes; with none listed the next round is drawn. -/
theorem stepRunsDecodedInstruction : Obligations.StepRunsDecodedInstruction := by
  refine ⟨fun s i rest hrun hlow hhigh hdecode hmove => ?decoded, fun s hnone => step_of_nil hnone⟩
  case decoded =>
    have hfetch := (fetchable_iff s.pc).2 ⟨hlow, hhigh⟩
    rw [← s.fetchWord_eq] at hdecode
    exact (step_of_running hmove hrun).trans (runStep_of_instr hfetch hdecode)

/-- Settles O9: by whether a key is down. -/
theorem waitKeyStepTakesHeldKey : Obligations.WaitKeyStepTakesHeldKey := by
  intro s x rest hwait hmove
  rw [step_of_waitKey hmove hwait]
  refine ⟨fun hnone => waitStep_of_no_key hnone, fun hkeys => ?held⟩
  case held =>
    obtain ⟨k, hdown, hstep⟩ := waitStep_of_key (s := { s with schedule := rest }) (x := x) hkeys
    refine ⟨_, k, hstep, hdown, ?code, fun r hr => ?others, rfl⟩
    case code =>
      rw [State.setRun_getV, storeKey_getV, if_pos rfl]
      exact byteOfKey_toNat k
    case others =>
      rw [State.setRun_getV, storeKey_getV, if_neg hr]
      rfl

/-- Settles O10: a tick writes its timer only. -/
theorem timerTickDecrements : Obligations.TimerTickDecrements := by
  refine fun s rest => ⟨fun hmove => ?dt, fun hmove => ?st⟩
  case dt =>
    rw [step_of_cons hmove, moveStep, dtTickStep_eq]
    exact ⟨_, rfl, rfl, tickDown_toNat s.isHalted s.dt⟩
  case st =>
    rw [step_of_cons hmove, moveStep, stTickStep_eq]
    exact ⟨_, rfl, rfl, tickDown_toNat s.isHalted s.st⟩

/-- Settles O18: by whether the stack is full. -/
theorem callPushesReturn : Obligations.CallPushesReturn := by
  refine fun nnn s => ⟨fun hroom => ?pushed, fun hfull => ?overflow⟩
  case pushed =>
    exact ⟨_, exec_call_of_push nnn (s.pushReturn_some hroom), addressOf_toNat nnn, rfl,
      Vector.getElem_set_self hroom, rfl, rfl⟩
  case overflow =>
    exact ⟨_, _, exec_call_of_full nnn hfull, rfl, rfl, rfl, hfull, rfl, rfl⟩

end Sys2Proof.Machine
end

section
/-! PROOFS. What each instruction that tests something answers, case by case, and what every instruction leaves
unchanged: the frame of `00_scope.md` (rule R16) and `10_state.md` (rules R21 to R37), with the fatal conditions of
`60_exceptions.md` (rules R200, R210, R211). -/

namespace Sys2Proof.Machine

open Sys2Proof.Safety

/-! ## The answers by the tested condition -/

theorem inNibble_eq_false {b : Byte} (hb : 15 < b.toNat) : inNibble b = false := decide_eq_false (by omega)

/-- R186: EX9E with a register value that names no key. -/
theorem exec_skp_of_gt {s : State} {x : Reg} (hx : 15 < (s.getV x).toNat) :
    exec (.skp x) s = raise .invalidKey (.skp x) s := by
  simp only [exec, execSkp, inNibble_eq_false hx, Bool.false_eq_true, if_false]

/-- R186: EXA1 with a register value that names no key. -/
theorem exec_sknp_of_gt {s : State} {x : Reg} (hx : 15 < (s.getV x).toNat) :
    exec (.sknp x) s = raise .invalidKey (.sknp x) s := by
  simp only [exec, execSknp, inNibble_eq_false hx, Bool.false_eq_true, if_false]

/-- R142: a register value that names a digit. -/
theorem exec_ldF_of_le {s : State} {x : Reg} (hx : (s.getV x).toNat ≤ 15) :
    exec (.ldF x) s = .next (s.setI (glyphAddress (s.getV x))) := by
  simp only [exec, execLdF, (inNibble_iff _).2 hx, if_true]

/-- R202: a register value that names no digit. -/
theorem exec_ldF_of_gt {s : State} {x : Reg} (hx : 15 < (s.getV x).toNat) :
    exec (.ldF x) s = raise .invalidDigit (.ldF x) s := by
  simp only [exec, execLdF, inNibble_eq_false hx, Bool.false_eq_true, if_false]

/-- R182: with a key down one of them is stored at once. -/
theorem exec_ldVxK_of_key {s : State} (x : Reg) (h : s.keys ≠ 0#16) :
    ∃ k, s.isKeyDown k = true ∧ exec (.ldVxK x) s = .next (storeKey x k s) := by
  cases hk : s.firstKeyDown with
  | none => exact absurd (s.firstKeyDown_none_iff.1 hk) h
  | some k => exact ⟨k, s.firstKeyDown_isKeyDown hk, by simp only [exec, execLdVxK, hk]⟩

/-- R182: with no key down the CPU waits. -/
theorem exec_ldVxK_of_no_key {s : State} (x : Reg) (h : s.keys = 0#16) :
    exec (.ldVxK x) s = .next (s.setRun (.waitKey x)) := by
  simp only [exec, execLdVxK, s.firstKeyDown_none_iff.2 h]

@[simp] theorem State.regRange_length (s : State) (x : Reg) : (s.regRange x).length = x.toNat + 1 := by
  simp [State.regRange, rangeLength]

/-- R144: the registers are stored where the span passes. -/
theorem exec_storeRegs_of_span {s : State} {x : Reg} (h : spanAddressable s.i.toNat (x.toNat + 1) = true) :
    exec (.storeRegs x) s = .next (s.store s.i.toNat (s.regRange x)) := by
  have hwrite := (s.memWrite_eq_some_iff _ s.i.toNat (s.regRange x)).2 ⟨by rwa [s.regRange_length], rfl⟩
  simp only [exec, execStoreRegs, State.spanBase, hwrite]

theorem exec_storeRegs_of_not_span {s : State} {x : Reg} (h : spanAddressable s.i.toNat (x.toNat + 1) = false) :
    exec (.storeRegs x) s = raise .memoryProtectionViolation (.storeRegs x) s := by
  have hrefused := (s.memWrite_eq_none_iff s.i.toNat (s.regRange x)).2 (by rwa [s.regRange_length])
  simp only [exec, execStoreRegs, State.spanBase, hrefused]

/-- The bytes of RAM from address a on, in address order. -/
def State.bytesAt (s : State) (a n : Nat) : List Byte := s.mem.readAll s.params.font a n

@[simp] theorem State.bytesAt_length (s : State) (a n : Nat) : (s.bytesAt a n).length = n :=
  Memory.readAll_length ..

theorem State.bytesAt_getElem (s : State) {a n k : Nat} (hk : k < (s.bytesAt a n).length) :
    (s.bytesAt a n)[k] = s.read (a + k) :=
  Memory.readAll_getElem _ _ _ _ _ hk

/-- R145: the registers are loaded where the span passes. -/
theorem exec_loadRegs_of_span {s : State} {x : Reg} (h : spanAddressable s.i.toNat (x.toNat + 1) = true) :
    exec (.loadRegs x) s = .next (State.setVsFrom 0 (s.bytesAt s.i.toNat (x.toNat + 1)) s) := by
  have hread := (s.memRead_eq_some_iff s.i.toNat (rangeLength x) _).2 ⟨h, rfl⟩
  simp only [exec, execLoadRegs, State.spanBase, hread]
  rfl

theorem exec_loadRegs_of_not_span {s : State} {x : Reg} (h : spanAddressable s.i.toNat (x.toNat + 1) = false) :
    exec (.loadRegs x) s = raise .memoryProtectionViolation (.loadRegs x) s := by
  have hrefused := (s.memRead_eq_none_iff s.i.toNat (rangeLength x)).2 h
  simp only [exec, execLoadRegs, State.spanBase, hrefused]

/-- The blit of DXYN in s: the new framebuffer, and whether some pixel went from on to off (R161, R162). -/
def State.blitOf (s : State) (x y : Reg) (n : BitVec 4) : Frame × Bool :=
  blit (s.bytesAt s.i.toNat n.toNat) (originX (s.getV x)) (originY (s.getV y)) s.fb

/-- R164: the span is tested first. -/
theorem exec_drw_of_not_span {s : State} {x y : Reg} {n : BitVec 4} (h : spanAddressable s.i.toNat n.toNat = false) :
    exec (.drw x y n) s = raise .memoryProtectionViolation (.drw x y n) s := by
  have hrefused := (s.memRead_eq_none_iff s.i.toNat n.toNat).2 h
  simp only [exec, execDrw, State.spanBase, hrefused]

/-- R161, R208: the vertical extent is tested second. -/
theorem exec_drw_of_overrun {s : State} {x y : Reg} {n : BitVec 4} (h : spanAddressable s.i.toNat n.toNat = true)
    (hover : 32 < originY (s.getV y) + n.toNat) : exec (.drw x y n) s = raise .drawVerticalOverrun (.drw x y n) s := by
  have hread := (s.memRead_eq_some_iff s.i.toNat n.toNat _).2 ⟨h, rfl⟩
  simp only [exec, execDrw, State.spanBase, hread, if_pos hover]

/-- R161: a draw that passes both tests writes the framebuffer and VF. -/
theorem exec_drw_of_fits {s : State} {x y : Reg} {n : BitVec 4} (h : spanAddressable s.i.toNat n.toNat = true)
    (hfits : originY (s.getV y) + n.toNat ≤ 32) : exec (.drw x y n) s =
      .next ((s.setFb (s.blitOf x y n).1).setV vf (flagOf (s.blitOf x y n).2)) := by
  have hread := (s.memRead_eq_some_iff s.i.toNat n.toNat _).2 ⟨h, rfl⟩
  simp only [exec, execDrw, State.spanBase, hread, if_neg (Nat.not_lt.2 hfits)]
  rfl

/-! ## What an instruction leaves unchanged, and the rule of each state operation (R16) -/

/-- From s to t only what the instruction i is given to write changed; RAM and RUN are spoken of elsewhere. -/
structure Keeps (i : Instr) (s t : State) : Prop where
  regs     : ∀ r, writesV i r = false → t.getV r = s.getV r
  index    : writesI i = false → t.i = s.i
  pc       : writesPc i = false → t.pc = s.pc
  sp       : usesStack i = false → t.sp = s.sp
  slots    : ∀ k, (hk : k < 16) → ((∃ nnn, i = .call nnn) → k ≠ s.sp.val) → t.stack[k] = s.stack[k]
  dt       : (∀ x, i ≠ .ldDtVx x) → t.dt = s.dt
  st       : (∀ x, i ≠ .ldStVx x) → t.st = s.st
  fb       : writesFb i = false → t.fb = s.fb
  keys     : t.keys = s.keys
  schedule : t.schedule = s.schedule
  loadOpen : t.loadOpen = s.loadOpen
  params   : t.params = s.params
  rounds   : t.rounds = s.rounds
  draws    : (∀ x kk, i ≠ .rnd x kk) → t.draws = s.draws
  keyPicks : (∀ x, i ≠ .ldVxK x) → t.keyPicks = s.keyPicks

namespace Keeps

variable {i : Instr} {s t : State}

theorem refl (i : Instr) (s : State) : Keeps i s s := by constructor <;> intros <;> rfl

theorem setV (h : Keeps i s t) {x : Reg} (hx : writesV i x = true) (b : Byte) : Keeps i s (t.setV x b) where
  __ := h
  regs r hr := by
    have hrx : r ≠ x := by rintro rfl; simp [hx] at hr
    rw [t.getV_setV_other b hrx, h.regs r hr]

theorem setI (h : Keeps i s t) (hi : writesI i = true) (a : Word) : Keeps i s (t.setI a) where
  __ := h
  index hi' := by simp [hi] at hi'

theorem setPc (h : Keeps i s t) (hi : writesPc i = true) (a : Word) : Keeps i s (t.setPc a) where
  __ := h
  pc hi' := by simp [hi] at hi'

theorem skipIf (h : Keeps i s t) (hi : writesPc i = true) (c : Bool) : Keeps i s (Machine.skipIf c t) := by
  rw [skipIf_eq]
  exact h.setPc hi _

theorem setFb (h : Keeps i s t) (hi : writesFb i = true) (f : Frame) : Keeps i s (t.setFb f) where
  __ := h
  fb hi' := by simp [hi] at hi'

theorem setRun (h : Keeps i s t) (r : RunState) : Keeps i s (t.setRun r) where __ := h

theorem store (h : Keeps i s t) (a : Nat) (bytes : List Byte) : Keeps i s (t.store a bytes) where __ := h

theorem setDt {x : Reg} (h : Keeps (.ldDtVx x) s t) (b : Byte) : Keeps (.ldDtVx x) s (t.setDt b) where
  __ := h
  dt hi := absurd rfl (hi x)

theorem setSt {x : Reg} (h : Keeps (.ldStVx x) s t) (b : Byte) : Keeps (.ldStVx x) s (t.setSt b) where
  __ := h
  st hi := absurd rfl (hi x)

theorem drawn {x : Reg} {kk : Byte} (h : Keeps (.rnd x kk) s t) : Keeps (.rnd x kk) s t.drawn where
  __ := h
  draws hi := absurd rfl (hi x kk)

theorem keyPicked {x : Reg} (h : Keeps (.ldVxK x) s t) : Keeps (.ldVxK x) s t.keyPicked where
  __ := h
  keyPicks hi := absurd rfl (hi x)

theorem pushReturn {nnn : BitVec 12} {u : State} (hpush : s.pushReturn = some u) : Keeps (.call nnn) s u := by
  obtain ⟨hroom, rfl⟩ := s.pushReturn_eq_some hpush
  exact { refl (.call nnn) s with
    sp := fun hi => nomatch hi
    slots := fun k hk hne => Vector.getElem_set_ne hroom hk (hne ⟨nnn, rfl⟩).symm }

theorem popReturn (s : State) : Keeps .ret s s.popReturn := by
  rcases Nat.eq_zero_or_pos s.sp.val with hempty | hlive
  · rw [s.popReturn_zero hempty]
    exact refl .ret s
  · rw [s.popReturn_pos hlive]
    exact { refl .ret s with
      sp := (nomatch ·)
      pc := (nomatch ·) }

/-- R145: a load of V0..VX leaves the registers above X. -/
theorem setVsFrom {x : Reg} {bytes : List Byte} (hlen : bytes.length = x.toNat + 1) (s : State) :
    Keeps (.loadRegs x) s (State.setVsFrom 0 bytes s) := by
  have hx := x.isLt
  have hregs : ∀ r, writesV (.loadRegs x) r = false → (State.setVsFrom 0 bytes s).getV r = s.getV r := by
    intro r hr
    have hr' : ¬r.toNat ≤ x.toNat := of_decide_eq_false hr
    rw [State.setVsFrom_getV bytes 0 s (by omega), dif_neg (by omega)]
  rw [State.setVsFrom_eq] at hregs ⊢
  exact { refl (.loadRegs x) s with regs := hregs }

end Keeps

/-! ## All an instruction can answer (R200, R211) -/

/-- What i can have made of s: it raised one of its conditions, and only RUN changed, or it completed within its frame,
RUN as before or WaitKey. -/
inductive Outcomes (i : Instr) (s : State) : State → Prop
  | raised {c : Cause} (hc : c ∈ mayRaise i) :
      Outcomes i s { s with run := .halted ⟨c, some (encode i), some (s.pc - 2#16)⟩ }
  | completed {t : State} (hkeeps : Keeps i s t) (hrun : t.run = s.run ∨ ∃ x, i = .ldVxK x ∧ t.run = .waitKey x) :
      Outcomes i s t

/-- The answer of i in s is a next state, one of those it may give. -/
def Answers (i : Instr) (s : State) : Prop := ∃ t, exec i s = .next t ∧ Outcomes i s t

namespace Answers

variable {i : Instr} {s t : State}

theorem raised {c : Cause} (hexec : exec i s = raise c i s) (hc : c ∈ mayRaise i := by simp [mayRaise]) :
    Answers i s :=
  ⟨_, hexec, .raised hc⟩

/-- An instruction that completes and leaves RUN. -/
theorem completed (hexec : exec i s = .next t) (hkeeps : Keeps i s t) (hrun : t.run = s.run) : Answers i s :=
  ⟨t, hexec, .completed hkeeps (.inl hrun)⟩

/-- An instruction that writes one register. -/
theorem setV {x : Reg} {b : Byte} (hexec : exec i s = .next (s.setV x b)) (hx : writesV i x = true) : Answers i s :=
  completed hexec ((Keeps.refl i s).setV hx b) rfl

/-- An instruction that writes a result and its flag. -/
theorem setResultFlag {x : Reg} {b flag : Byte} (hexec : exec i s = .next (s.setResultFlag x b flag))
    (hx : writesV i x = true) (hvf : writesV i vf = true) : Answers i s :=
  completed hexec (((Keeps.refl i s).setV hx b).setV hvf flag) rfl

/-- A skip. -/
theorem skipIf {c : Bool} (hexec : exec i s = .next (skipIf c s)) (hi : writesPc i = true) : Answers i s :=
  completed hexec ((Keeps.refl i s).skipIf hi c) (by rw [skipIf_eq])

end Answers

theorem call_answers (nnn : BitVec 12) (s : State) : Answers (.call nnn) s := by
  cases hpush : s.pushReturn with
  | none => exact .raised (exec_call_of_full nnn (s.pushReturn_eq_none_iff.1 hpush))
  | some u =>
    obtain ⟨_, hu⟩ := s.pushReturn_eq_some hpush
    exact .completed (exec_call_of_push nnn hpush) ((Keeps.pushReturn hpush).setPc rfl _) (by rw [State.setPc_run, hu])

theorem ret_answers (s : State) : Answers .ret s := by
  refine .completed (exec_ret s) (Keeps.popReturn s) ?_
  rcases Nat.eq_zero_or_pos s.sp.val with hempty | hlive
  · rw [s.popReturn_zero hempty]
  · rw [s.popReturn_pos hlive]

theorem drw_answers (x y : Reg) (n : BitVec 4) (s : State) : Answers (.drw x y n) s := by
  cases hspan : spanAddressable s.i.toNat n.toNat with
  | false => exact .raised (exec_drw_of_not_span hspan)
  | true =>
    by_cases hfits : originY (s.getV y) + n.toNat ≤ 32
    · exact .completed (exec_drw_of_fits hspan hfits) (((Keeps.refl _ s).setFb rfl _).setV rfl _) rfl
    · exact .raised (exec_drw_of_overrun hspan (Nat.lt_of_not_le hfits))

theorem skp_answers (x : Reg) (s : State) : Answers (.skp x) s := by
  by_cases hx : (s.getV x).toNat ≤ 15
  · exact .skipIf (exec_skp_of_le hx) rfl
  · exact .raised (exec_skp_of_gt (Nat.lt_of_not_le hx))

theorem sknp_answers (x : Reg) (s : State) : Answers (.sknp x) s := by
  by_cases hx : (s.getV x).toNat ≤ 15
  · exact .skipIf (exec_sknp_of_le hx) rfl
  · exact .raised (exec_sknp_of_gt (Nat.lt_of_not_le hx))

theorem ldF_answers (x : Reg) (s : State) : Answers (.ldF x) s := by
  by_cases hx : (s.getV x).toNat ≤ 15
  · exact .completed (exec_ldF_of_le hx) ((Keeps.refl _ s).setI rfl _) rfl
  · exact .raised (exec_ldF_of_gt (Nat.lt_of_not_le hx))

theorem ldVxK_answers (x : Reg) (s : State) : Answers (.ldVxK x) s := by
  by_cases hkeys : s.keys = 0#16
  · exact ⟨_, exec_ldVxK_of_no_key x hkeys, .completed ((Keeps.refl _ s).setRun _) (.inr ⟨x, rfl, rfl⟩)⟩
  · obtain ⟨k, -, hexec⟩ := exec_ldVxK_of_key x hkeys
    exact .completed hexec ((Keeps.refl _ s).keyPicked.setV (by simp [writesV]) _) rfl

theorem ldB_answers (x : Reg) (s : State) : Answers (.ldB x) s := by
  cases hspan : spanAddressable s.i.toNat 3 with
  | true => exact .completed (exec_ldB_of_span hspan) ((Keeps.refl _ s).store _ _) rfl
  | false => exact .raised (exec_ldB_of_not_span hspan)

theorem storeRegs_answers (x : Reg) (s : State) : Answers (.storeRegs x) s := by
  cases hspan : spanAddressable s.i.toNat (x.toNat + 1) with
  | true => exact .completed (exec_storeRegs_of_span hspan) ((Keeps.refl _ s).store _ _) rfl
  | false => exact .raised (exec_storeRegs_of_not_span hspan)

theorem loadRegs_answers (x : Reg) (s : State) : Answers (.loadRegs x) s := by
  cases hspan : spanAddressable s.i.toNat (x.toNat + 1) with
  | true =>
    exact .completed (exec_loadRegs_of_span hspan) (Keeps.setVsFrom (s.bytesAt_length _ _) s)
      (by rw [State.setVsFrom_eq])
  | false => exact .raised (exec_loadRegs_of_not_span hspan)

/-- Every instruction answers a raise of its own, or completes within its frame (R16, R200, R211). -/
theorem exec_answers (i : Instr) (s : State) : Answers i s := by
  cases i with
  | call nnn => exact call_answers nnn s
  | ret => exact ret_answers s
  | drw x y n => exact drw_answers x y n s
  | skp x => exact skp_answers x s
  | sknp x => exact sknp_answers x s
  | ldF x => exact ldF_answers x s
  | ldVxK x => exact ldVxK_answers x s
  | ldB x => exact ldB_answers x s
  | storeRegs x => exact storeRegs_answers x s
  | loadRegs x => exact loadRegs_answers x s
  | cls => exact .completed rfl ((Keeps.refl _ s).setFb rfl _) rfl
  | jp | jpV0 => exact .completed rfl ((Keeps.refl _ s).setPc rfl _) rfl
  | ldI | addI => exact .completed rfl ((Keeps.refl _ s).setI rfl _) rfl
  | ldDtVx => exact .completed rfl ((Keeps.refl _ s).setDt _) rfl
  | ldStVx => exact .completed rfl ((Keeps.refl _ s).setSt _) rfl
  | seImm | sneImm | seReg | sneReg => exact .skipIf rfl rfl
  | ldImm | addImm | ldReg | orReg | andReg | xorReg | ldVxDt => exact .setV rfl (by simp [writesV])
  | rnd => exact .completed rfl ((Keeps.refl _ s).drawn.setV (by simp [writesV]) _) rfl
  | addReg | subReg | shrReg | subnReg | shlReg =>
    exact .setResultFlag rfl (by simp [writesV]) (by simp [writesV])

theorem exec_outcomes (i : Instr) (s : State) : OnNext (Outcomes i s) (exec i s) := by
  obtain ⟨t, hexec, houtcomes⟩ := exec_answers i s
  rw [hexec]
  exact onNext_next houtcomes

/-- A raise keeps within the frame too (R16, R211). -/
theorem Outcomes.keeps {i : Instr} {s t : State} (h : Outcomes i s t) : Keeps i s t := by
  cases h with
  | raised => exact (Keeps.refl i s).setRun _
  | completed hkeeps => exact hkeeps

theorem exec_keeps (i : Instr) (s : State) : OnNext (Keeps i s) (exec i s) :=
  (exec_outcomes i s).mono fun _ => Outcomes.keeps

/-! ## The obligations -/

/-- Settles O47: a raise is a next state too. -/
theorem execAlwaysAnswers : Obligations.ExecAlwaysAnswers := by
  intro i s
  obtain ⟨t, hexec, -⟩ := exec_answers i s
  exact ⟨t, hexec⟩

/-- Settles O48: only a raise halts a running CORE. -/
theorem fatalConditionsArePrecise : Obligations.FatalConditionsArePrecise := by
  intro i s t r hrun hexec hhalted
  cases exec_outcomes i s t hexec with
  | raised hc =>
    cases hhalted
    exact ⟨rfl, hc, rfl, rfl⟩
  | completed _ hsame =>
    rcases hsame with hsame | ⟨x, -, hwait⟩
    · cases hhalted.symm.trans (hsame.trans hrun)
    · cases hhalted.symm.trans hwait

/-- Settles O50: the registers of the frame. -/
theorem registerFrame : Obligations.RegisterFrame := fun i s t hexec => (exec_keeps i s t hexec).regs

/-- Settles O51: the special registers of the frame. -/
theorem specialRegisterFrame : Obligations.SpecialRegisterFrame := by
  intro i s t hexec
  have h := exec_keeps i s t hexec
  exact ⟨h.index, h.pc, h.sp, h.slots, h.dt, h.st⟩

/-- Settles O52: the display and the host's state of the frame, and RUN by the outcome. -/
theorem displayHostAndRunFrame : Obligations.DisplayHostAndRunFrame := by
  intro i s t hexec
  have houtcomes := exec_outcomes i s t hexec
  have h := houtcomes.keeps
  refine ⟨h.fb, h.keys, h.schedule, h.loadOpen, h.params, h.rounds, h.draws, h.keyPicks, ?run⟩
  case run =>
    cases houtcomes with
    | raised => exact .inr (.inl ⟨_, rfl⟩)
    | completed _ hrun => exact hrun.imp_right .inr

end Sys2Proof.Machine
end

section
/-! PROOFS. What every step keeps and may raise: the bound on PC and the stack slots, `10_state.md` (rules R22, R27,
R39), and the causes of a halt, `60_exceptions.md` (rules R201, R206). -/

namespace Sys2Proof.Machine

open Sys2Proof.Safety

/-! ## The bound on PC through one instruction (R27)

The fetch check leaves PC at most 0xEA0 after the advance, so what a call saves is at most that, a skip goes 2 further,
and the farthest jump is BNNN's, to 0xFFF + 0xFF = 0x10FE. -/

/-- What holds of PC and the stack when an instruction executes: the fetch check has passed, PC is advanced. -/
def FetchBounded (s : State) : Prop := s.pc.toNat ≤ 0xEA0 ∧ ∀ k, (h : k < 16) → (s.stack[k]'h).toNat ≤ 0xEA0

theorem FetchBounded.pcBounded {s : State} (h : FetchBounded s) : PcBounded s := ⟨h.1.trans (by decide), h.2⟩

/-- A register as a 16-bit addend is the same number (R103, R141). -/
theorem offsetOf_toNat (b : Byte) : (offsetOf b).toNat = b.toNat := BitVec.toNat_setWidth_of_le (by decide)

/-- BNNN's sum does not wrap (R103). -/
theorem toNat_addressOf_add_offsetOf (nnn : BitVec 12) (b : Byte) :
    (addressOf nnn + offsetOf b).toNat = nnn.toNat + b.toNat := by
  have hnnn := nnn.isLt
  have hb := b.isLt
  rw [BitVec.toNat_add, addressOf_toNat, offsetOf_toNat, Nat.mod_eq_of_lt (by omega)]

theorem skipIf_pc_le {s : State} (h : s.pc.toNat ≤ 0xEA0) (c : Bool) : (skipIf c s).pc.toNat ≤ 0x10FE := by
  rw [skipIf_eq]
  cases c
  · exact h.trans (by decide)
  · have hskip : (s.pc + 2#16).toNat ≤ 0x10FE := by bv_omega
    exact hskip

/-- A return goes to a saved address. -/
theorem popReturn_pc_le {s : State} (h : FetchBounded s) : s.popReturn.pc.toNat ≤ 0x10FE := by
  rcases Nat.eq_zero_or_pos s.sp.val with hempty | hlive
  · rw [s.popReturn_zero hempty]
    exact h.pcBounded.1
  · rw [s.popReturn_pos hlive]
    exact (h.2 _ _).trans (by decide)

/-- A call jumps below 0x1000 and saves the PC of the fetch. -/
theorem call_pcBounded {s : State} (h : FetchBounded s) (nnn : BitVec 12) :
    OnNext PcBounded (exec (.call nnn) s) := by
  cases hpush : s.pushReturn with
  | none =>
    rw [exec_call_of_full nnn (s.pushReturn_eq_none_iff.1 hpush)]
    exact onNext_next h.pcBounded
  | some u =>
    obtain ⟨hroom, rfl⟩ := s.pushReturn_eq_some hpush
    rw [exec_call_of_push nnn hpush]
    refine onNext_next ⟨?pc, fun k hk => ?slots⟩
    case pc =>
      have hnnn := nnn.isLt
      rw [State.setPc_pc, addressOf_toNat]
      omega
    case slots =>
      rw [State.setPc_stack, Vector.getElem_set]
      split
      · exact h.1
      · exact h.2 k hk

/-- Where an instruction other than a call may go. -/
theorem exec_pc_le {i : Instr} {s : State} (h : FetchBounded s) (hcall : ¬∃ nnn, i = .call nnn) :
    OnNext (fun t => t.pc.toNat ≤ 0x10FE) (exec i s) := by
  cases hi : writesPc i with
  | false =>
    refine (exec_keeps i s).mono fun t hkeeps => ?_
    rw [hkeeps.pc hi]
    exact h.pcBounded.1
  | true =>
    cases i with
    | call nnn => exact absurd ⟨nnn, rfl⟩ hcall
    | ret => exact onNext_next (popReturn_pc_le h)
    | jp nnn =>
      have hnnn := nnn.isLt
      exact onNext_next (by rw [State.setPc_pc, addressOf_toNat]; omega)
    | jpV0 nnn =>
      have hnnn := nnn.isLt
      have hv0 := (s.getV 0x0#4).isLt
      exact onNext_next (by rw [State.setPc_pc, toNat_addressOf_add_offsetOf]; omega)
    | seImm | sneImm | seReg | sneReg => exact onNext_next (skipIf_pc_le h.1 _)
    | skp x =>
      by_cases hx : (s.getV x).toNat ≤ 15
      · rw [exec_skp_of_le hx]
        exact onNext_next (skipIf_pc_le h.1 _)
      · rw [exec_skp_of_gt (Nat.lt_of_not_le hx)]
        exact onNext_next h.pcBounded.1
    | sknp x =>
      by_cases hx : (s.getV x).toNat ≤ 15
      · rw [exec_sknp_of_le hx]
        exact onNext_next (skipIf_pc_le h.1 _)
      · rw [exec_sknp_of_gt (Nat.lt_of_not_le hx)]
        exact onNext_next h.pcBounded.1
    | _ => cases hi

theorem exec_pcBounded {s : State} (h : FetchBounded s) (i : Instr) : OnNext PcBounded (exec i s) := by
  by_cases hcall : ∃ nnn, i = .call nnn
  · obtain ⟨nnn, rfl⟩ := hcall
    exact call_pcBounded h nnn
  · intro t hexec
    refine ⟨exec_pc_le h hcall t hexec, fun k hk => ?_⟩
    rw [(exec_keeps i s t hexec).slots k hk (absurd · hcall)]
    exact h.2 k hk

/-! ## The bound on PC through a step (R27, R230) -/

theorem State.advancePc_fetchBounded {s : State} (hs : PcBounded s) (hfetch : fetchable s.pc = true) :
    FetchBounded s.advancePc := by
  have hbounds := (fetchable_iff s.pc).1 hfetch
  have hpc : (s.pc + 2#16).toNat ≤ 0xEA0 := by bv_omega
  exact ⟨hpc, hs.2⟩

theorem runStep_pcBounded {s : State} (hs : PcBounded s) : OnNext PcBounded (runStep s) := by
  unfold runStep
  split
  · next hfetch =>
    have hadvanced := s.advancePc_fetchBounded hs hfetch
    split
    · exact exec_pcBounded hadvanced _
    · exact onNext_next hadvanced.pcBounded
  · exact onNext_next hs

theorem waitStep_pcBounded (x : Reg) {s : State} (hs : PcBounded s) : OnNext PcBounded (waitStep x s) := by
  unfold waitStep
  split <;> exact onNext_next hs

theorem cpuStep_pcBounded {s : State} (hs : PcBounded s) : OnNext PcBounded (cpuStep s) := by
  unfold cpuStep
  split
  · exact runStep_pcBounded (s := s.startRun) hs
  · exact waitStep_pcBounded _ hs
  · exact onNext_fault _ _

theorem loadStep_pcBounded (image : List Byte) {s : State} (hs : PcBounded s) :
    OnNext PcBounded (loadStep image s) := by
  unfold loadStep
  split
  · split <;> exact onNext_next hs
  · exact onNext_refused _ _

theorem resetWith_pcBounded (p : Config.Params) : PcBounded (State.resetWith p) :=
  ⟨by simp [State.resetWith], fun k hk => by simp [State.resetWith]⟩

theorem moveStep_pcBounded (m : Move) {s : State} (hs : PcBounded s) : OnNext PcBounded (moveStep m s) := by
  cases m with
  | instrTick => exact cpuStep_pcBounded hs
  | dtTick =>
    rw [moveStep, dtTickStep_eq]
    exact onNext_next hs
  | stTick =>
    rw [moveStep, stTickStep_eq]
    exact onNext_next hs
  | keys k => exact onNext_next hs
  | load image => exact loadStep_pcBounded image hs
  | reset => exact onNext_next (resetWith_pcBounded s.params)
  | shutdown => exact onNext_refused _ _

/-- Settles O54: every move keeps the bound; an instruction starts within the tighter bound of the fetch check. -/
theorem stepKeepsPcBounded : Obligations.StepKeepsPcBounded := by
  intro s t hs hstep
  obtain ⟨u, m, rest, -, hmove, hu⟩ := step_cases s
  rw [hmove] at hstep
  refine moveStep_pcBounded m ?_ t hstep
  rcases hu with rfl | ⟨-, rfl⟩ <;> exact hs

/-- Settles O55: reset lists no cell of RAM, and its PC and slots are within the bound. -/
theorem resetMeetsInvariants : Obligations.ResetMeetsInvariants :=
  fun p => ⟨⟨rfl, fun _ hc => absurd hc List.not_mem_nil⟩, resetWith_pcBounded p⟩

/-! ## The causes of a halt (R201, R206) -/

/-- If t is halted, then neither by a register index nor by an image. -/
def HaltedByCpu (t : State) : Prop :=
  ∀ r, t.run = .halted r → r.cause ≠ .invalidRegister ∧ r.cause ≠ .programTooLarge

theorem haltedByCpu_of_not_halted {t : State} (h : ∀ r, t.run ≠ .halted r) : HaltedByCpu t :=
  fun r hr => absurd hr (h r)

theorem haltedByCpu_of_run_eq {s t : State} (h : t.run = s.run) (hs : HaltedByCpu s) : HaltedByCpu t := by
  unfold HaltedByCpu
  rwa [h]

theorem haltedByCpu_of_halted {t : State} {c : Cause} {opcode pc : Option Word} (h : t.run = .halted ⟨c, opcode, pc⟩)
    (hc : c ≠ .invalidRegister ∧ c ≠ .programTooLarge) : HaltedByCpu t := by
  intro r hr
  cases h.symm.trans hr
  exact hc

/-- R200: neither condition is one an instruction may raise. -/
theorem cause_of_mem_mayRaise {i : Instr} {c : Cause} (hc : c ∈ mayRaise i) :
    c ≠ .invalidRegister ∧ c ≠ .programTooLarge := by
  constructor <;> rintro rfl <;> cases i <;> simp [mayRaise] at hc

theorem exec_haltedByCpu (i : Instr) {s : State} (hs : HaltedByCpu s) : OnNext HaltedByCpu (exec i s) := by
  refine (exec_outcomes i s).mono fun t houtcomes => ?_
  cases houtcomes with
  | raised hc => exact haltedByCpu_of_halted rfl (cause_of_mem_mayRaise hc)
  | completed _ hrun =>
    rcases hrun with hsame | ⟨x, -, hwait⟩
    · exact haltedByCpu_of_run_eq hsame hs
    · exact haltedByCpu_of_not_halted fun r hr => nomatch hwait.symm.trans hr

theorem runStep_haltedByCpu {s : State} (hs : HaltedByCpu s) : OnNext HaltedByCpu (runStep s) := by
  unfold runStep
  split
  · split
    · exact exec_haltedByCpu _ (s := s.advancePc) hs
    · exact onNext_next (haltedByCpu_of_halted rfl (by decide))
  · exact onNext_next (haltedByCpu_of_halted rfl (by decide))

theorem waitStep_haltedByCpu (x : Reg) {s : State} (hs : HaltedByCpu s) : OnNext HaltedByCpu (waitStep x s) := by
  unfold waitStep
  split
  · exact onNext_next (haltedByCpu_of_not_halted fun r hr => nomatch hr)
  · exact onNext_next hs

theorem cpuStep_haltedByCpu {s : State} (hs : HaltedByCpu s) : OnNext HaltedByCpu (cpuStep s) := by
  unfold cpuStep
  split
  · exact runStep_haltedByCpu (s := s.startRun) hs
  · exact waitStep_haltedByCpu _ hs
  · exact onNext_fault _ _

/-- A load halts only for an image that does not fit (R206, R245). -/
theorem loadStep_haltedByCpu {image : List Byte} (hfits : imageFits image = true) {s : State} (hs : HaltedByCpu s) :
    OnNext HaltedByCpu (loadStep image s) := by
  unfold loadStep
  rw [if_pos hfits]
  split
  · exact onNext_next hs
  · exact onNext_refused _ _

theorem moveStep_haltedByCpu {m : Move} (hm : ∀ image, m = .load image → imageFits image = true) {s : State}
    (hs : HaltedByCpu s) : OnNext HaltedByCpu (moveStep m s) := by
  cases m with
  | instrTick => exact cpuStep_haltedByCpu hs
  | dtTick =>
    rw [moveStep, dtTickStep_eq]
    exact onNext_next hs
  | stTick =>
    rw [moveStep, stTickStep_eq]
    exact onNext_next hs
  | keys k => exact onNext_next hs
  | load image => exact loadStep_haltedByCpu (hm image rfl) hs
  | reset => exact onNext_next (haltedByCpu_of_not_halted fun r hr => nomatch hr)
  | shutdown => exact onNext_refused _ _

/-- R245: an open load port copies an image that fits. -/
theorem loadStep_of_fits {image : List Byte} {s : State} (hopen : s.loadOpen = true) (hlen : image.length ≤ 3232) :
    loadStep image s = .next (s.startRun.store 0x200 image) := by
  simp only [loadStep, hopen, (imageFits_iff image).2 hlen, if_true, Config.progBase]

/-- R206: an open load port rejects an image too long. -/
theorem loadStep_of_too_long {image : List Byte} {s : State} (hopen : s.loadOpen = true) (hlong : 3232 < image.length) :
    loadStep image s = .next (s.startRun.halt ⟨.programTooLarge, none, none⟩) := by
  have hfits : imageFits image = false :=
    Bool.eq_false_iff.2 fun h => absurd ((imageFits_iff image).1 h) (Nat.not_le.2 hlong)
  simp only [loadStep, hopen, hfits, if_true, Bool.false_eq_true, if_false]

/-- A closed load port gives no next state. -/
theorem loadOpen_of_next {image : List Byte} {s t : State} (hload : loadStep image s = .next t) :
    s.loadOpen = true := by
  by_contra hclosed
  cases (loadStep_of_closed (Bool.not_eq_true _ ▸ hclosed)).symm.trans hload

/-- A round of the free order lists no load (R7, R245). -/
theorem load_not_mem_roundMoves (image : List Byte) (turns : List Config.Turn) :
    Move.load image ∉ roundMoves turns := by
  intro hmem
  rcases mem_roundMoves hmem with ⟨a, ha⟩ | ⟨k, hk⟩
  · cases a <;> cases ha
  · cases hk

/-- Settles O49: only the load of an image too long halts with ProgramTooLarge, and the host has to list it. -/
theorem stepNeverRaisesInvalidRegister : Obligations.StepNeverRaisesInvalidRegister := by
  intro s t r hs hstep hhalted
  obtain ⟨u, m, rest, hsched, hmove, hu⟩ := step_cases s
  rw [hmove] at hstep
  by_cases hm : ∀ image, m = .load image → imageFits image = true
  · have hnot : ∀ r, ({ u with schedule := rest } : State).run ≠ .halted r := by
      rcases hu with rfl | ⟨-, rfl⟩ <;> exact hs
    obtain ⟨hregister, himage⟩ := moveStep_haltedByCpu hm (haltedByCpu_of_not_halted hnot) t hstep r hhalted
    exact ⟨hregister, fun h => absurd h himage⟩
  · obtain ⟨image, rfl, hlong⟩ : ∃ image, m = .load image ∧ 3232 < image.length := by
      simpa [imageFits_iff] using hm
    rcases hu with rfl | ⟨-, rfl⟩
    · have hopen := loadOpen_of_next hstep
      cases (loadStep_of_too_long hopen hlong).symm.trans hstep
      cases hhalted
      exact ⟨by decide, fun _ => ⟨image, rest, hsched, hlong⟩⟩
    · rw [s.drawRound_schedule] at hsched
      exact absurd (hsched ▸ List.mem_cons_self) (load_not_mem_roundMoves image _)

end Sys2Proof.Machine
end

section
/-! PROOFS. What an instruction does not depend on: the timers and INSTR_HZ (rules R5, R32, R62, R260), and the stack
slots at or above SP (rule R28). -/

namespace Sys2Proof.Machine

open Sys2Proof.Safety

/-! ## The parts of the state that most instructions neither read nor write -/

/-- The stack slots, the timers and the rate of the instruction clock. -/
structure Unseen where
  stack   : Vector Word 16
  dt      : Byte
  st      : Byte
  instrHz : Nat

/-- s with other values in those parts. -/
def State.mapUnseen (h : Unseen → Unseen) (s : State) : State :=
  let u := h ⟨s.stack, s.dt, s.st, s.params.instrHz⟩
  { s with stack := u.stack, dt := u.dt, st := u.st, params := { s.params with instrHz := u.instrHz } }

/-- An outcome with f applied to its next state. -/
def mapNext (f : State → State) : Result → Result
  | .next t => .next (f t)
  | .fault r => .fault r
  | .refused r => .refused r

/-- h writes other parts than the stack, whatever the stack holds. -/
def LeavesStack (h : Unseen → Unseen) : Prop := ∀ u k, h { u with stack := k } = { h u with stack := k }

def LeavesDt (h : Unseen → Unseen) : Prop := ∀ u d, h { u with dt := d } = { h u with dt := d }

def LeavesSt (h : Unseen → Unseen) : Prop := ∀ u d, h { u with st := d } = { h u with st := d }

variable {h : Unseen → Unseen}

theorem LeavesStack.stack_eq (hh : LeavesStack h) (u : Unseen) : (h u).stack = u.stack :=
  (congrArg Unseen.stack (hh u u.stack) :)

theorem LeavesDt.dt_eq (hh : LeavesDt h) (u : Unseen) : (h u).dt = u.dt :=
  (congrArg Unseen.dt (hh u u.dt) :)

/-! ## The operations under other values there -/

theorem skipIf_mapUnseen (h : Unseen → Unseen) (c : Bool) (s : State) :
    skipIf c (s.mapUnseen h) = (skipIf c s).mapUnseen h := by cases c <;> rfl

theorem State.setVsFrom_mapUnseen (h : Unseen → Unseen) (bytes : List Byte) (k : Nat) (s : State) :
    State.setVsFrom k bytes (s.mapUnseen h) = (State.setVsFrom k bytes s).mapUnseen h := by
  induction bytes generalizing k s with
  | nil => rfl
  | cons b bytes ih => exact ih (k + 1) (s.setV (BitVec.ofNat 4 k) b)

theorem State.firstKeyDown_mapUnseen (h : Unseen → Unseen) (s : State) :
    (s.mapUnseen h).firstKeyDown = s.firstKeyDown := rfl

theorem State.popReturn_mapUnseen (hh : LeavesStack h) (s : State) :
    (s.mapUnseen h).popReturn = s.popReturn.mapUnseen h := by
  rcases Nat.eq_zero_or_pos s.sp.val with hempty | hlive
  · rw [s.popReturn_zero hempty]
    exact (s.mapUnseen h).popReturn_zero hempty
  · rw [s.popReturn_pos hlive, (s.mapUnseen h).popReturn_pos hlive]
    simp only [State.mapUnseen, hh.stack_eq]

theorem State.dt_mapUnseen (hh : LeavesDt h) (s : State) : (s.mapUnseen h).dt = s.dt := hh.dt_eq _

theorem State.setDt_mapUnseen (hh : LeavesDt h) (b : Byte) (s : State) :
    (s.mapUnseen h).setDt b = (s.setDt b).mapUnseen h := by
  have hset := hh ⟨s.stack, s.dt, s.st, s.params.instrHz⟩ b
  simp only [State.mapUnseen, State.setDt, hset]

theorem State.setSt_mapUnseen (hh : LeavesSt h) (b : Byte) (s : State) :
    (s.mapUnseen h).setSt b = (s.setSt b).mapUnseen h := by
  have hset := hh ⟨s.stack, s.dt, s.st, s.params.instrHz⟩ b
  simp only [State.mapUnseen, State.setSt, hset]

theorem State.pushReturn_mapUnseen (hh : LeavesStack h) (s : State) :
    (s.mapUnseen h).pushReturn = s.pushReturn.map (State.mapUnseen h) := by
  rcases Nat.lt_or_ge s.sp.val 16 with hroom | hfull
  · rw [s.pushReturn_some hroom, (s.mapUnseen h).pushReturn_some hroom]
    have hset := hh ⟨s.stack, s.dt, s.st, s.params.instrHz⟩ (s.stack.set s.sp.val s.pc hroom)
    simp only [Option.map_some, State.mapUnseen, hset, hh.stack_eq]
  · have hfull' : s.sp.val = 16 := by have := s.sp.isLt; omega
    rw [s.pushReturn_none hfull', (s.mapUnseen h).pushReturn_none hfull', Option.map_none]

/-! ## The instructions under other values there -/

theorem exec_call_mapUnseen (hh : LeavesStack h) (nnn : BitVec 12) (s : State) :
    exec (.call nnn) (s.mapUnseen h) = mapNext (State.mapUnseen h) (exec (.call nnn) s) := by
  simp only [exec, execCall, s.pushReturn_mapUnseen hh]
  cases s.pushReturn <;> rfl

theorem exec_drw_mapUnseen (h : Unseen → Unseen) (x y : Reg) (n : BitVec 4) (s : State) :
    exec (.drw x y n) (s.mapUnseen h) = mapNext (State.mapUnseen h) (exec (.drw x y n) s) := by
  cases hspan : spanAddressable s.i.toNat n.toNat with
  | false =>
    rw [exec_drw_of_not_span hspan]
    exact exec_drw_of_not_span (s := s.mapUnseen h) hspan
  | true =>
    by_cases hfits : originY (s.getV y) + n.toNat ≤ 32
    · rw [exec_drw_of_fits hspan hfits]
      exact exec_drw_of_fits (s := s.mapUnseen h) hspan hfits
    · have hover := Nat.lt_of_not_le hfits
      rw [exec_drw_of_overrun hspan hover]
      exact exec_drw_of_overrun (s := s.mapUnseen h) hspan hover

theorem exec_skp_mapUnseen (h : Unseen → Unseen) (x : Reg) (s : State) :
    exec (.skp x) (s.mapUnseen h) = mapNext (State.mapUnseen h) (exec (.skp x) s) := by
  by_cases hx : (s.getV x).toNat ≤ 15
  · rw [exec_skp_of_le hx, mapNext, ← skipIf_mapUnseen]
    exact exec_skp_of_le (s := s.mapUnseen h) hx
  · rw [exec_skp_of_gt (Nat.lt_of_not_le hx)]
    exact exec_skp_of_gt (s := s.mapUnseen h) (Nat.lt_of_not_le hx)

theorem exec_sknp_mapUnseen (h : Unseen → Unseen) (x : Reg) (s : State) :
    exec (.sknp x) (s.mapUnseen h) = mapNext (State.mapUnseen h) (exec (.sknp x) s) := by
  by_cases hx : (s.getV x).toNat ≤ 15
  · rw [exec_sknp_of_le hx, mapNext, ← skipIf_mapUnseen]
    exact exec_sknp_of_le (s := s.mapUnseen h) hx
  · rw [exec_sknp_of_gt (Nat.lt_of_not_le hx)]
    exact exec_sknp_of_gt (s := s.mapUnseen h) (Nat.lt_of_not_le hx)

theorem exec_ldF_mapUnseen (h : Unseen → Unseen) (x : Reg) (s : State) :
    exec (.ldF x) (s.mapUnseen h) = mapNext (State.mapUnseen h) (exec (.ldF x) s) := by
  by_cases hx : (s.getV x).toNat ≤ 15
  · rw [exec_ldF_of_le hx]
    exact exec_ldF_of_le (s := s.mapUnseen h) hx
  · rw [exec_ldF_of_gt (Nat.lt_of_not_le hx)]
    exact exec_ldF_of_gt (s := s.mapUnseen h) (Nat.lt_of_not_le hx)

theorem exec_ldVxK_mapUnseen (h : Unseen → Unseen) (x : Reg) (s : State) :
    exec (.ldVxK x) (s.mapUnseen h) = mapNext (State.mapUnseen h) (exec (.ldVxK x) s) := by
  simp only [exec, execLdVxK, s.firstKeyDown_mapUnseen h]
  cases s.firstKeyDown <;> rfl

theorem exec_ldB_mapUnseen (h : Unseen → Unseen) (x : Reg) (s : State) :
    exec (.ldB x) (s.mapUnseen h) = mapNext (State.mapUnseen h) (exec (.ldB x) s) := by
  cases hspan : spanAddressable s.i.toNat 3 with
  | true =>
    rw [exec_ldB_of_span hspan]
    exact exec_ldB_of_span (s := s.mapUnseen h) hspan
  | false =>
    rw [exec_ldB_of_not_span hspan]
    exact exec_ldB_of_not_span (s := s.mapUnseen h) hspan

theorem exec_storeRegs_mapUnseen (h : Unseen → Unseen) (x : Reg) (s : State) :
    exec (.storeRegs x) (s.mapUnseen h) = mapNext (State.mapUnseen h) (exec (.storeRegs x) s) := by
  cases hspan : spanAddressable s.i.toNat (x.toNat + 1) with
  | true =>
    rw [exec_storeRegs_of_span hspan]
    exact exec_storeRegs_of_span (s := s.mapUnseen h) hspan
  | false =>
    rw [exec_storeRegs_of_not_span hspan]
    exact exec_storeRegs_of_not_span (s := s.mapUnseen h) hspan

theorem exec_loadRegs_mapUnseen (h : Unseen → Unseen) (x : Reg) (s : State) :
    exec (.loadRegs x) (s.mapUnseen h) = mapNext (State.mapUnseen h) (exec (.loadRegs x) s) := by
  cases hspan : spanAddressable s.i.toNat (x.toNat + 1) with
  | true =>
    rw [exec_loadRegs_of_span hspan, mapNext, ← State.setVsFrom_mapUnseen]
    exact exec_loadRegs_of_span (s := s.mapUnseen h) hspan
  | false =>
    rw [exec_loadRegs_of_not_span hspan]
    exact exec_loadRegs_of_not_span (s := s.mapUnseen h) hspan

/-- With other values in the parts that i does not use, i does the same (R5, R28, R32). -/
theorem exec_mapUnseen {i : Instr} (hstack : usesStack i = true → LeavesStack h)
    (hdt : ∀ x, i = .ldVxDt x ∨ i = .ldDtVx x → LeavesDt h) (hst : ∀ x, i = .ldStVx x → LeavesSt h) (s : State) :
    exec i (s.mapUnseen h) = mapNext (State.mapUnseen h) (exec i s) := by
  cases i with
  | call nnn => exact exec_call_mapUnseen (hstack rfl) nnn s
  | ret => exact congrArg Host.Outcome.next (s.popReturn_mapUnseen (hstack rfl))
  | ldVxDt x =>
    rw [exec_ldVxDt, exec_ldVxDt, s.dt_mapUnseen (hdt x (.inl rfl))]
    rfl
  | ldDtVx x => exact congrArg Host.Outcome.next (s.setDt_mapUnseen (hdt x (.inr rfl)) (s.getV x))
  | ldStVx x => exact congrArg Host.Outcome.next (s.setSt_mapUnseen (hst x rfl) (s.getV x))
  | drw x y n => exact exec_drw_mapUnseen h x y n s
  | skp x => exact exec_skp_mapUnseen h x s
  | sknp x => exact exec_sknp_mapUnseen h x s
  | ldF x => exact exec_ldF_mapUnseen h x s
  | ldVxK x => exact exec_ldVxK_mapUnseen h x s
  | ldB x => exact exec_ldB_mapUnseen h x s
  | storeRegs x => exact exec_storeRegs_mapUnseen h x s
  | loadRegs x => exact exec_loadRegs_mapUnseen h x s
  | seImm | sneImm | seReg | sneReg => exact congrArg Host.Outcome.next (skipIf_mapUnseen h _ s)
  | cls | jp | jpV0 | ldI | addI => rfl
  | ldImm | addImm | ldReg | orReg | andReg | xorReg | rnd => rfl
  | addReg | subReg | shrReg | subnReg | shlReg => rfl

theorem exec_mapUnseen_of_next {i : Instr} {s t : State} (hstack : usesStack i = true → LeavesStack h)
    (hdt : ∀ x, i = .ldVxDt x ∨ i = .ldDtVx x → LeavesDt h) (hst : ∀ x, i = .ldStVx x → LeavesSt h)
    (hexec : exec i s = .next t) : exec i (s.mapUnseen h) = .next (t.mapUnseen h) := by
  rw [exec_mapUnseen hstack hdt hst, hexec, mapNext]

/-! ## Dead stack slots (R28) -/

/-- A push on stacks that differ in dead slots saves the same word and makes its slot live in both (R101). -/
theorem SameButDeadSlots.pushReturn {s s' u : State} (hs : SameButDeadSlots s s') (hpush : s.pushReturn = some u) :
    ∃ u', s'.pushReturn = some u' ∧ SameButDeadSlots u u' := by
  obtain ⟨hroom, rfl⟩ := s.pushReturn_eq_some hpush
  obtain ⟨k, rfl, hlive⟩ := hs
  refine ⟨_, State.pushReturn_some { s with stack := k } hroom, _, rfl, fun j hj => ?_⟩
  have hj' : j < s.sp.val + 1 := hj
  by_cases hnew : j = s.sp.val
  · subst hnew
    exact (Vector.getElem_set_self hroom).trans (Vector.getElem_set_self hroom).symm
  · have hold := hlive j (by omega)
    simpa [Vector.getElem_set, Ne.symm hnew] using hold

/-- A pop reads a live slot only (R102). -/
theorem SameButDeadSlots.popReturn_popReturn {s s' : State} (hs : SameButDeadSlots s s') :
    SameButDeadSlots s.popReturn s'.popReturn := by
  obtain ⟨k, rfl, hlive⟩ := hs
  rcases Nat.eq_zero_or_pos s.sp.val with hempty | hpos
  · rw [s.popReturn_zero hempty, State.popReturn_zero { s with stack := k } hempty]
    exact ⟨k, rfl, hlive⟩
  · rw [s.popReturn_pos hpos, State.popReturn_pos { s with stack := k } hpos]
    have htop := hlive (s.sp.val - 1) (by omega)
    refine ⟨k, by simp only [htop], fun j hj => hlive j ?_⟩
    have hj' : j < s.sp.val - 1 := hj
    omega

/-- Instructions other than a call and a return do not use the stack; the call and the return use the live part. -/
theorem exec_sameButDeadSlots {i : Instr} {s s' t : State} (hs : SameButDeadSlots s s') (hexec : exec i s = .next t) :
    ∃ t', exec i s' = .next t' ∧ SameButDeadSlots t t' := by
  cases hi : usesStack i with
  | false =>
    obtain ⟨k, rfl, hlive⟩ := hs
    have hkeeps := exec_keeps i s t hexec
    have hcall : ¬∃ nnn, i = .call nnn := by
      rintro ⟨nnn, rfl⟩
      cases hi
    refine ⟨_, exec_mapUnseen_of_next (h := fun u => { u with stack := k }) (by simp [hi])
      (fun _ _ _ _ => rfl) (fun _ _ _ _ => rfl) hexec, k, rfl, fun j hj => ?_⟩
    rw [hkeeps.slots j _ (absurd · hcall)]
    exact hlive j (hkeeps.sp hi ▸ hj)
  | true =>
    cases i with
    | ret =>
      cases hexec
      exact ⟨_, rfl, hs.popReturn_popReturn⟩
    | call nnn =>
      cases hpush : s.pushReturn with
      | none =>
        have hfull := s.pushReturn_eq_none_iff.1 hpush
        rw [exec_call_of_full nnn hfull] at hexec
        cases hexec
        obtain ⟨k, rfl, hlive⟩ := hs
        exact ⟨_, exec_call_of_full nnn hfull, k, rfl, hlive⟩
      | some u =>
        rw [exec_call_of_push nnn hpush] at hexec
        cases hexec
        obtain ⟨u', hpush', k, rfl, hlive⟩ := hs.pushReturn hpush
        exact ⟨_, exec_call_of_push nnn hpush', k, rfl, hlive⟩
    | _ => cases hi

/-! ## The obligations -/

/-- Settles O57: each of the three parts under another value, for the instructions that do not use it. -/
theorem timersAreInvisible : Obligations.TimersAreInvisible := by
  intro i s t d hz hexec
  refine ⟨fun hno => ?dt, fun hno => ?st, ?instrHz⟩
  case dt =>
    exact exec_mapUnseen_of_next (h := fun u => { u with dt := d }) (fun _ _ _ => rfl)
      (fun x hx => absurd hx (not_or.2 (hno x))) (fun _ _ _ _ => rfl) hexec
  case st =>
    exact exec_mapUnseen_of_next (h := fun u => { u with st := d }) (fun _ _ _ => rfl)
      (fun _ _ _ _ => rfl) (fun x hx => absurd hx (hno x)) hexec
  case instrHz =>
    exact exec_mapUnseen_of_next (h := fun u => { u with instrHz := hz }) (fun _ _ _ => rfl)
      (fun _ _ _ _ => rfl) (fun _ _ _ _ => rfl) hexec

/-- Settles O58: what differs in dead slots alone goes on to differ in dead slots alone. -/
theorem deadStackSlotsAreUnobservable : Obligations.DeadStackSlotsAreUnobservable := by
  intro i s t k' hlive hexec
  obtain ⟨_, hexec', l', rfl, hlive'⟩ := exec_sameButDeadSlots ⟨k', rfl, hlive⟩ hexec
  exact ⟨l', hexec', hlive'⟩

end Sys2Proof.Machine
end

section
/-! PROOFS. Logic, addition, subtraction and shifts, `41_alu.md` (rules R121, R125 to R132). -/

namespace Sys2Proof.Machine

open Sys2Proof.Safety

/-! ## The flags as numbers (R128 to R132) -/

theorem flagOf_toNat (c : Bool) : (flagOf c).toNat = if c = true then 1 else 0 := by cases c <;> rfl

theorem carryFlag_toNat (a b : Byte) : (carryFlag a b).toNat = if 255 < a.toNat + b.toNat then 1 else 0 := by
  simp only [carryFlag, flagOf_toNat, decide_eq_true_eq]

theorem greaterFlag_toNat (a b : Byte) : (greaterFlag a b).toNat = if b.toNat < a.toNat then 1 else 0 := by
  simp only [greaterFlag, flagOf_toNat, decide_eq_true_eq]

theorem lowBitFlag_toNat (b : Byte) : (lowBitFlag b).toNat = b.toNat % 2 := by
  rw [lowBitFlag, BitVec.toNat_and]
  exact Nat.and_one_is_mod b.toNat

/-- Bit 7 of a byte is set from 128 on, and the mask leaves it where it stands (R132). -/
theorem highBitFlag_toNat (b : Byte) : (highBitFlag b).toNat = if 128 ≤ b.toNat then 0x80 else 0x00 := by
  have hb := b.isLt
  have hmask : (highBitFlag b).toNat = (b.toNat.testBit 7).toNat * 2 ^ 7 := by
    rw [highBitFlag, BitVec.toNat_and, ← Nat.and_two_pow]
    rfl
  rw [hmask, Nat.toNat_testBit]
  split <;> omega

/-! ## The results as numbers (R129 to R132) -/

theorem toNat_sub_byte (a b : Byte) : (a - b).toNat = (a.toNat + 256 - b.toNat) % 256 := by
  have hb := b.isLt
  rw [BitVec.toNat_sub]
  congr 1
  omega

theorem toNat_ushiftRight_one (b : Byte) : (b >>> 1).toNat = b.toNat / 2 := by
  rw [BitVec.toNat_ushiftRight, Nat.shiftRight_one]

theorem toNat_shiftLeft_one (b : Byte) : (b <<< 1).toNat = b.toNat * 2 % 256 := by
  rw [BitVec.toNat_shiftLeft, Nat.shiftLeft_eq]

/-! ## What the write of a result with its flag answers (R121) -/

/-- An outcome that is a result with its flag: VX holds the result unless X = F, VF holds the flag, and nothing else
changed. -/
theorem exists_next_setResultFlag {r : Result} {s : State} {x : Reg} {b flag : Byte} {m f : Nat}
    (hr : r = .next (s.setResultFlag x b flag)) (hb : b.toNat = m) (hflag : flag.toNat = f) :
    ∃ t, r = .next t ∧ (x ≠ vf → (t.getV x).toNat = m) ∧ (t.getV vf).toNat = f ∧
      (∀ q, q ≠ x → q ≠ vf → t.getV q = s.getV q) ∧ t = { s with v := t.v } := by
  refine ⟨_, hr, fun hx => ?result, ?flag, fun q hqx hqvf => ?others, s.setResultFlag_eq x b flag⟩
  case result => rw [State.setResultFlag_getV, if_neg hx, if_pos rfl, hb]
  case flag => rw [State.setResultFlag_vf, hflag]
  case others => rw [State.setResultFlag_getV, if_neg hqvf, if_neg hqx]

/-- An outcome that is the write of one register: that register holds the byte, and nothing else changed. -/
theorem exists_next_setV {r : Result} {s : State} {x : Reg} {b : Byte} {P : Byte → Prop}
    (hr : r = .next (s.setV x b)) (hb : P b) :
    ∃ t, r = .next t ∧ t = { s with v := t.v } ∧ (∀ q, q ≠ x → t.getV q = s.getV q) ∧ P (t.getV x) :=
  ⟨_, hr, rfl, fun _ hq => s.getV_setV_other b hq, by rwa [State.getV_setV_self]⟩

/-! ## The obligations -/

/-- Settles O25: each is one register write, of a byte given bit by bit. -/
theorem logicBitByBit : Obligations.LogicBitByBit := by
  refine fun s x y => ⟨?or, ?and, ?xor⟩
  case or =>
    exact exists_next_setV (P := fun b => ∀ k, b.getLsbD k = ((s.getV x).getLsbD k || (s.getV y).getLsbD k)) rfl
      fun _ => BitVec.getLsbD_or
  case and =>
    exact exists_next_setV (P := fun b => ∀ k, b.getLsbD k = ((s.getV x).getLsbD k && (s.getV y).getLsbD k)) rfl
      fun _ => BitVec.getLsbD_and
  case xor =>
    exact exists_next_setV (P := fun b => ∀ k, b.getLsbD k = ((s.getV x).getLsbD k ^^ (s.getV y).getLsbD k)) rfl
      fun _ => BitVec.getLsbD_xor

/-- Settles O26: the byte sum and the carry of the old values. -/
theorem addRegisterCarries : Obligations.AddRegisterCarries :=
  fun s x y => exists_next_setResultFlag (x := x) rfl (BitVec.toNat_add (s.getV x) (s.getV y)) (carryFlag_toNat _ _)

/-- Settles O27: the byte difference and the strict comparison of the old values, in both orders. -/
theorem subtractFlagsStrictly : Obligations.SubtractFlagsStrictly :=
  fun s x y =>
    ⟨exists_next_setResultFlag (x := x) rfl (toNat_sub_byte (s.getV x) (s.getV y)) (greaterFlag_toNat _ _),
      exists_next_setResultFlag (x := x) rfl (toNat_sub_byte (s.getV y) (s.getV x)) (greaterFlag_toNat _ _)⟩

/-- Settles O28: the shifted source and the bit shifted out of it, each from VY. -/
theorem shiftsSourceVy : Obligations.ShiftsSourceVy :=
  fun s x y =>
    ⟨exists_next_setResultFlag (x := x) rfl (toNat_ushiftRight_one (s.getV y)) (lowBitFlag_toNat _),
      exists_next_setResultFlag (x := x) rfl (toNat_shiftLeft_one (s.getV y)) (highBitFlag_toNat _)⟩

end Sys2Proof.Machine
end

section
/-! PROOFS. The index register, the font glyph, and the stores and loads of a register range, `42_index_memory.md`
(rules R141, R142, R144, R145), with the fetch of a stored word, `20_memory.md` (rule R64). -/

namespace Sys2Proof.Machine

open Sys2Proof.Safety

/-! ## Addresses (R31, R53, R141, R142) -/

theorem glyphAddress_toNat {d : Byte} (hd : d.toNat ≤ 15) : (glyphAddress d).toNat = 0x50 + 5 * d.toNat := by
  rw [glyphAddress, BitVec.toNat_ofNat]
  simp only [Config.fontBase, Config.glyphBytes]
  omega

/-- The span of V0..VX at address a, given by its last place (R144, R145). -/
theorem spanAddressable_succ {a n : Nat} (h : ∀ k, k ≤ n → Addressable (a + k)) : spanAddressable a (n + 1) = true :=
  (spanAddressable_iff_addressable a (n + 1)).2 fun k hk => h k (Nat.le_of_lt_succ hk)

theorem not_spanAddressable_succ {a n : Nat} (h : ∃ k, k ≤ n ∧ ¬Addressable (a + k)) :
    spanAddressable a (n + 1) = false := by
  obtain ⟨k, hk, hbad⟩ := h
  exact (spanAddressable_eq_false_iff a (n + 1)).2 ⟨k, Nat.lt_succ_of_le hk, hbad⟩

/-! ## A range of registers in RAM (R144, R145) -/

theorem State.regRange_getElem (s : State) {x : Reg} {k : Nat} (hk : k < (s.regRange x).length) :
    (s.regRange x)[k] = s.getV (BitVec.ofNat 4 k) := by
  simp [State.regRange]

/-- A stored register is read back at its own place of a span that passes the check (R144). -/
theorem State.read_store_regRange {s : State} {x r : Reg} {a : Nat} (hwf : s.ramWf = true)
    (hspan : spanAddressable a (x.toNat + 1) = true) (hr : r.toNat ≤ x.toNat) :
    (s.store a (s.regRange x)).read (a + r.toNat) = s.getV r := by
  have hinside := spanAddressable_inside hspan (Nat.succ_pos _)
  have hlen := s.regRange_length x
  rw [s.read_store_inside hwf (by omega) (by omega), s.regRange_getElem, BitVec.ofNat_toNat, BitVec.setWidth_eq]

/-- A loaded register holds the byte at its own place; the registers above X are as before (R145). -/
theorem State.getV_load_bytesAt (s : State) (x r : Reg) (a : Nat) :
    (State.setVsFrom 0 (s.bytesAt a (x.toNat + 1)) s).getV r =
      if r.toNat ≤ x.toNat then s.read (a + r.toNat) else s.getV r := by
  have hx := x.isLt
  have hlen := s.bytesAt_length a (x.toNat + 1)
  rw [State.setVsFrom_getV _ 0 s (by omega)]
  by_cases hr : r.toNat ≤ x.toNat
  · rw [dif_pos (by omega), if_pos hr, s.bytesAt_getElem, Nat.sub_zero]
  · rw [dif_neg (by omega), if_neg hr]

/-- FX55 that leaves the CORE running has stored the registers (R144, R204). -/
theorem storeRegs_of_running {s t : State} {x : Reg} (hexec : exec (.storeRegs x) s = .next t)
    (ht : t.run = .running) :
    spanAddressable s.i.toNat (x.toNat + 1) = true ∧ t = s.store s.i.toNat (s.regRange x) := by
  cases hspan : spanAddressable s.i.toNat (x.toNat + 1) with
  | true =>
    rw [exec_storeRegs_of_span hspan] at hexec
    cases hexec
    exact ⟨rfl, rfl⟩
  | false =>
    rw [exec_storeRegs_of_not_span hspan] at hexec
    cases hexec
    cases ht

/-! ## What a store leaves (R16) -/

theorem store_leaves_others {r : Result} {s t : State} {a : Nat} {bytes : List Byte}
    (hr : r = .next (s.store a bytes)) (ht : r = .next t) :
    (∀ q, q < a ∨ a + bytes.length ≤ q → t.read q = s.read q) ∧ t = { s with mem := t.mem, run := t.run } := by
  cases hr.symm.trans ht
  exact ⟨fun _ hq => s.read_store_outside hq, rfl⟩

theorem raise_leaves_ram {r : Result} {s t : State} {c : Cause} {i : Instr} (hr : r = raise c i s)
    (ht : r = .next t) : (∀ q, t.read q = s.read q) ∧ t = { s with mem := t.mem, run := t.run } := by
  cases hr.symm.trans ht
  exact ⟨fun _ => rfl, rfl⟩

/-! ## The obligations -/

/-- Settles O31: the sum is taken at the width of I. -/
theorem addIndexWraps : Obligations.AddIndexWraps := by
  refine fun s x => ⟨s.setI (s.i + offsetOf (s.getV x)), rfl, ?sum, rfl⟩
  case sum => rw [State.setI_i, BitVec.toNat_add, offsetOf_toNat]

/-- Settles O32: by whether the register names a digit. -/
theorem fontGlyphAddress : Obligations.FontGlyphAddress := by
  refine fun s x => ⟨fun hx => ?digit, fun hx => exec_ldF_of_gt hx⟩
  case digit =>
    have hglyph := glyphAddress_toNat hx
    refine ⟨_, exec_ldF_of_le hx, hglyph, ?_, rfl⟩
    rw [State.setI_i, hglyph]
    omega

/-- Settles O34: by whether the span passes the check. -/
theorem storeRegistersStores : Obligations.StoreRegistersStores := by
  refine fun s x => ⟨fun hwf haddr => ?stored, fun hbad => ?refused⟩
  case stored =>
    have hspan := spanAddressable_succ haddr
    exact ⟨_, exec_storeRegs_of_span hspan, fun r hr => State.read_store_regRange hwf hspan hr, rfl⟩
  case refused => exact ⟨_, rfl, exec_storeRegs_of_not_span (not_spanAddressable_succ hbad)⟩

/-- Settles O35: by whether the span passes the check. -/
theorem loadRegistersLoads : Obligations.LoadRegistersLoads := by
  refine fun s x => ⟨fun haddr => ?loaded, fun hbad => ?refused⟩
  case loaded =>
    exact ⟨_, exec_loadRegs_of_span (spanAddressable_succ haddr), fun r => s.getV_load_bytesAt x r s.i.toNat,
      State.setVsFrom_eq _ _ s⟩
  case refused => exact ⟨_, rfl, exec_loadRegs_of_not_span (not_spanAddressable_succ hbad)⟩

/-- Settles O36: the load finds the span the store passed, and reads each register's byte at its own place. -/
theorem storeThenLoadReturnsRegisters : Obligations.StoreThenLoadReturnsRegisters := by
  intro s t x v' hwf hrun hexec ht
  obtain ⟨hspan, rfl⟩ := storeRegs_of_running hexec ht
  refine ⟨_, exec_loadRegs_of_span (s := { s.store s.i.toNat (s.regRange x) with v := v' }) hspan, ?run,
    fun r hr => ?reg⟩
  case run =>
    rw [State.setVsFrom_eq]
    exact hrun
  case reg =>
    rw [State.getV_load_bytesAt, if_pos hr]
    exact State.read_store_regRange hwf hspan hr

/-- Settles O37: a store writes its span only, and a refused one writes no byte. -/
theorem storesLeaveOtherBytes : Obligations.StoresLeaveOtherBytes := by
  refine fun s t x => ⟨fun hexec => ?ldB, fun hexec => ?storeRegs⟩
  case ldB =>
    cases hspan : spanAddressable s.i.toNat 3 with
    | true => exact store_leaves_others (exec_ldB_of_span hspan) hexec
    | false => exact (raise_leaves_ram (exec_ldB_of_not_span hspan) hexec).imp_left fun hread q _ => hread q
  case storeRegs =>
    cases hspan : spanAddressable s.i.toNat (x.toNat + 1) with
    | true =>
      rw [← s.regRange_length x]
      exact store_leaves_others (exec_storeRegs_of_span hspan) hexec
    | false => exact (raise_leaves_ram (exec_storeRegs_of_not_span hspan) hexec).imp_left fun hread q _ => hread q

/-- Settles O39: the fetch reads the two places the store wrote. -/
theorem storeIsSeenByFetch : Obligations.StoreIsSeenByFetch := by
  intro s t x p a b hwf _ hexec ht hp hb hbx
  obtain ⟨hspan, rfl⟩ := storeRegs_of_running hexec ht
  have hfirst := State.read_store_regRange (r := a) hwf hspan (by omega)
  have hsecond := State.read_store_regRange (r := b) hwf hspan hbx
  rw [← hp] at hfirst
  rw [show s.i.toNat + b.toNat = p.toNat + 1 by omega] at hsecond
  rw [← hfirst, ← hsecond]
  exact wordOfBytes_toNat _ _

end Sys2Proof.Machine
end

section
/-! PROOFS. The sprite draw, `43_display.md` (rules R161 to R164, R208, R212). -/

namespace Sys2Proof.Machine

open Sys2Proof.Safety

/-! ## The screen by column and row (R34) -/

theorem pixelIndex_div (c r : Nat) (hc : c < 64) : pixelIndex c r / 64 = r := by
  simp only [pixelIndex, Config.fbWidth]
  omega

theorem pixelIndex_mod (c r : Nat) (hc : c < 64) : pixelIndex c r % 64 = c := by
  simp only [pixelIndex, Config.fbWidth]
  omega

theorem pixelIndex_lt {c r : Nat} (hc : c < 64) (hr : r < 32) : pixelIndex c r < 2048 := by
  simp only [pixelIndex, Config.fbWidth]
  omega

/-- Every place of the framebuffer is a column of a row. -/
theorem exists_pixelIndex {j : Nat} (hj : j < 2048) : ∃ c r, c < 64 ∧ r < 32 ∧ j = pixelIndex c r := by
  refine ⟨j % 64, j / 64, by omega, by omega, ?_⟩
  simp only [pixelIndex, Config.fbWidth]
  omega

/-- Two states that show the same screen have the same framebuffer. -/
theorem fb_eq_of_render_eq {s t : State} (h : ∀ c r, c < 64 → r < 32 → s.render c r = t.render c r) : s.fb = t.fb := by
  refine frame_ext_pixel fun j hj => ?_
  obtain ⟨c, r, hc, hr, rfl⟩ := exists_pixelIndex hj
  exact h c r hc hr

/-! ## The sprite of a draw (R161, R162) -/

/-- The pixel of DXYN's sprite at column c of row r, as the state s gives the sprite and its origin. -/
def State.spriteAt (s : State) (x y : Reg) (n : BitVec 4) (c r : Nat) : Bool :=
  spriteOn s.read s.i.toNat ((s.getV x).toNat % 64) ((s.getV y).toNat % 32) n.toNat c r

/-- The blit's closed form over RAM is the sprite of the statements. -/
theorem rowsLight_bytesAt (s : State) (a x0 y0 n r : Nat) {c : Nat} (hc : c < 64) :
    rowsLight (s.bytesAt a n) x0 y0 (pixelIndex c r) = spriteOn s.read a x0 y0 n c r := by
  simp only [rowsLight, spriteOn, pixelIndex_div c r hc, pixelIndex_mod c r hc, s.bytesAt_length, s.bytesAt_getElem]
  by_cases hlow : y0 ≤ r
  · by_cases hhigh : r < y0 + n
    · have hrow : r - y0 < n := by omega
      simp [hlow, hhigh, hrow]
    · have hrow : ¬r - y0 < n := by omega
      simp [hhigh, hrow]
  · simp [hlow]

/-- What a blit that ends above the bottom edge does to the screen and reports (R162, R163). -/
theorem State.blitOf_spec (s : State) {x y : Reg} {n : BitVec 4} (hfits : originY (s.getV y) + n.toNat ≤ 32) :
    (∀ c r, c < 64 → r < 32 →
      pixel (s.blitOf x y n).1 (pixelIndex c r) = (s.render c r ^^ s.spriteAt x y n c r)) ∧
    ((s.blitOf x y n).2 = true ↔
      ∃ c r, c < 64 ∧ r < 32 ∧ s.spriteAt x y n c r = true ∧ s.render c r = true) := by
  have hx0 : originX (s.getV x) < 64 := Nat.mod_lt _ (by decide)
  have hy0 : originY (s.getV y) + (s.bytesAt s.i.toNat n.toNat).length ≤ 32 := by rwa [s.bytesAt_length]
  obtain ⟨hpixels, hcollided⟩ := blitRows_spec _ hx0 _ hy0 (s.fb, false)
  refine ⟨fun c r hc hr => ?_, hcollided.trans ⟨?_, ?_⟩⟩
  · exact (hpixels _ (pixelIndex_lt hc hr)).trans (congrArg _ (rowsLight_bytesAt s _ _ _ _ r hc))
  · rintro (hfalse | ⟨j, hj, hlight, hon⟩)
    · cases hfalse
    · obtain ⟨c, r, hc, hr, rfl⟩ := exists_pixelIndex hj
      exact ⟨c, r, hc, hr, (rowsLight_bytesAt s _ _ _ _ r hc).symm.trans hlight, hon⟩
  · rintro ⟨c, r, hc, hr, hlight, hon⟩
    exact .inr ⟨_, pixelIndex_lt hc hr, (rowsLight_bytesAt s _ _ _ _ r hc).trans hlight, hon⟩

/-! ## What a draw does (R161 to R163) -/

/-- From s to t the sprite of DXYN was drawn, and VF reports the collision. -/
structure Drawn (s : State) (x y : Reg) (n : BitVec 4) (t : State) : Prop where
  pixels   : ∀ c r, c < 64 → r < 32 → t.render c r = (s.render c r ^^ s.spriteAt x y n c r)
  collided : (t.getV vf).toNat = 1 ↔ ∃ c r, c < 64 ∧ r < 32 ∧ s.spriteAt x y n c r = true ∧ s.render c r = true
  flag     : (t.getV vf).toNat = 0 ∨ (t.getV vf).toNat = 1
  others   : ∀ r, r ≠ vf → t.getV r = s.getV r
  rest     : t = { s with fb := t.fb, v := t.v }

theorem exec_drw_drawn {s : State} {x y : Reg} {n : BitVec 4} (hspan : spanAddressable s.i.toNat n.toNat = true)
    (hfits : originY (s.getV y) + n.toNat ≤ 32) : ∃ t, exec (.drw x y n) s = .next t ∧ Drawn s x y n t := by
  obtain ⟨hpixels, hcollided⟩ := s.blitOf_spec (x := x) hfits
  refine ⟨_, exec_drw_of_fits hspan hfits, hpixels, ?collided, ?flag, fun r hr => State.getV_setV_other _ _ hr, rfl⟩
  case collided =>
    rw [State.getV_setV_self, ← hcollided]
    cases (s.blitOf x y n).2 <;> decide
  case flag =>
    rw [State.getV_setV_self]
    cases (s.blitOf x y n).2 <;> decide

/-- A draw that leaves the CORE running has passed both tests (R161, R164). -/
theorem drw_of_running {s t : State} {x y : Reg} {n : BitVec 4} (hexec : exec (.drw x y n) s = .next t)
    (ht : t.run = .running) :
    spanAddressable s.i.toNat n.toNat = true ∧ originY (s.getV y) + n.toNat ≤ 32 := by
  cases hspan : spanAddressable s.i.toNat n.toNat with
  | false =>
    cases (exec_drw_of_not_span hspan).symm.trans hexec
    cases ht
  | true =>
    refine ⟨rfl, Nat.le_of_not_lt fun hover => ?_⟩
    cases (exec_drw_of_overrun hspan hover).symm.trans hexec
    cases ht

theorem drawn_of_running {s t : State} {x y : Reg} {n : BitVec 4} (hexec : exec (.drw x y n) s = .next t)
    (ht : t.run = .running) : Drawn s x y n t := by
  obtain ⟨hspan, hfits⟩ := drw_of_running hexec ht
  obtain ⟨u, hu, hdrawn⟩ := exec_drw_drawn (x := x) hspan hfits
  cases hu.symm.trans hexec
  exact hdrawn

/-- A pixel under the sprite that was on is a pixel that went from on to off (R163). -/
theorem Drawn.went_off_iff {s t : State} {x y : Reg} {n : BitVec 4} (h : Drawn s x y n t) {c r : Nat} (hc : c < 64)
    (hr : r < 32) :
    s.spriteAt x y n c r = true ∧ s.render c r = true ↔ s.render c r = true ∧ t.render c r = false := by
  rw [h.pixels c r hc hr]
  cases s.spriteAt x y n c r <;> cases s.render c r <;> decide

/-- After a draw, a draw with V as before has the same sprite at the same place. -/
theorem Drawn.spriteAt_eq {s t : State} {x y : Reg} {n : BitVec 4} (h : Drawn s x y n t) (c r : Nat) :
    ({ t with v := s.v } : State).spriteAt x y n c r = s.spriteAt x y n c r := by
  rw [h.rest]
  rfl

/-! ## The obligations -/

/-- Settles O41: the draw passes both tests. -/
theorem drawXorsSprite : Obligations.DrawXorsSprite := by
  intro s x y n haddr hfits
  obtain ⟨t, hexec, h⟩ := exec_drw_drawn (x := x) ((spanAddressable_iff_addressable _ _).2 haddr) hfits
  exact ⟨t, hexec, h.pixels, h.others, h.rest⟩

/-- Settles O42: the pixels that went off are those under the sprite that were on. -/
theorem drawReportsCollision : Obligations.DrawReportsCollision := by
  intro s t x y n _ hexec ht
  have h := drawn_of_running hexec ht
  refine ⟨h.collided.trans ?_, h.flag⟩
  exact exists₂_congr fun c r => and_congr_right fun hc => and_congr_right fun hr => h.went_off_iff hc hr

/-- Settles O43: the answers of the two tests, in their order. -/
theorem drawTrapsInOrder : Obligations.DrawTrapsInOrder :=
  fun s _ _ n =>
    ⟨fun hbad => exec_drw_of_not_span ((spanAddressable_eq_false_iff s.i.toNat n.toNat).2 hbad),
      fun haddr hover => exec_drw_of_overrun ((spanAddressable_iff_addressable s.i.toNat n.toNat).2 haddr) hover⟩

/-- Settles O44: the second draw XORs the same pixels, so it turns off what the first turned on. -/
theorem drawTwiceRestores : Obligations.DrawTwiceRestores := by
  intro s t x y n _ hexec ht
  obtain ⟨hspan, hfits⟩ := drw_of_running hexec ht
  have h := drawn_of_running hexec ht
  have hi : t.i = s.i := by rw [h.rest]
  obtain ⟨u, hexec', h'⟩ := exec_drw_drawn (s := { t with v := s.v }) (x := x) (by rwa [hi]) hfits
  refine ⟨u, hexec', fb_eq_of_render_eq fun c r hc hr => ?pixel, fun ⟨c, r, hc, hr, hoff, hon⟩ => ?collides⟩
  case pixel =>
    calc u.render c r = (t.render c r ^^ s.spriteAt x y n c r) := by rw [h'.pixels c r hc hr, h.spriteAt_eq]; rfl
      _ = s.render c r := by rw [h.pixels c r hc hr, Bool.xor_assoc, Bool.xor_self, Bool.xor_false]
  case collides =>
    have hlight : s.spriteAt x y n c r = true := by
      rw [h.pixels c r hc hr, hoff, Bool.false_xor] at hon
      exact hon
    exact h'.collided.2 ⟨c, r, hc, hr, (h.spriteAt_eq c r).trans hlight, hon⟩

end Sys2Proof.Machine
end

section
/-! PROOFS. Single steps and instructions: fetch and decode failures and the halted CORE (rules R54, R205, R207, R211,
R232), the load port and reset (rules R31, R39, R240, R245), the status outputs (rule R13), BNNN (rule R103), the key and timer
instructions (rules R180 to R186). -/

namespace Sys2Proof.Machine

open Sys2Proof.Safety

/-! ## The CPU step where it executes nothing (R54, R77, R211) -/

theorem runStep_of_not_fetchable {s : State} (h : ¬fetchable s.pc = true) :
    runStep s = .next (s.halt ⟨.fetchOutOfBounds, none, some s.pc⟩) := by
  rw [runStep, if_neg h]

theorem runStep_of_unknown {s : State} {w : Word} (hfetch : fetchable s.pc = true)
    (hdecode : decode s.fetchWord = .unknownInstruction w) :
    runStep s = .next (s.advancePc.halt ⟨.unknownInstruction, some w, some s.pc⟩) := by
  simp only [runStep, hfetch, hdecode, if_true]

theorem cpuStep_of_halted {s : State} {r : FaultRecord} (h : s.run = .halted r) : cpuStep s = .fault (.halted r) := by
  simp only [cpuStep, h]

theorem tickDown_of_halted (b : Byte) : tickDown true b = b := by
  rw [tickDown, Bool.not_true, Bool.and_false]
  rfl

theorem dtTickStep_of_halted {s : State} (h : s.isHalted = true) : dtTickStep s = .next s := by
  rw [dtTickStep_eq, h, tickDown_of_halted]
  rfl

theorem stTickStep_of_halted {s : State} (h : s.isHalted = true) : stTickStep s = .next s := by
  rw [stTickStep_eq, h, tickDown_of_halted]
  rfl

/-- Settles O7: by which of the two tests fails. -/
theorem fetchAndDecodeFailuresHalt : Obligations.FetchAndDecodeFailuresHalt := by
  intro s rest hrun hmove
  rw [step_of_running hmove hrun]
  refine ⟨fun hout => ?fetch, fun hlow hhigh w hw hnone => ?decode⟩
  case fetch => exact runStep_of_not_fetchable fun hfetch => hout ((fetchable_iff s.pc).1 hfetch)
  case decode =>
    have hunknown : decode s.fetchWord = .unknownInstruction w := by
      rw [s.fetchWord_eq, ← hw]
      exact (illegalWordsAreUnknown w w).2 ⟨rfl, hnone⟩
    exact runStep_of_unknown (s := { s with schedule := rest, loadOpen := false })
      ((fetchable_iff s.pc).2 ⟨hlow, hhigh⟩) hunknown

/-- Settles O8: no arm of a CPU step or a tick acts on a halted CORE. -/
theorem haltedCoreIsFrozen : Obligations.HaltedCoreIsFrozen := by
  intro s r hrun
  have hhalted : s.isHalted = true := s.isHalted_iff.2 ⟨r, hrun⟩
  refine ⟨fun rest hmove => ?cpu, fun rest hmove => ?tick⟩
  case cpu =>
    rw [step_of_cons hmove]
    exact cpuStep_of_halted hrun
  case tick =>
    rcases hmove with hmove | hmove
    · exact (step_of_cons hmove).trans (dtTickStep_of_halted hhalted)
    · exact (step_of_cons hmove).trans (stTickStep_of_halted hhalted)

/-- Settles O59: the jump sets PC to the value it had before the advance. -/
theorem selfJumpRepeats : Obligations.SelfJumpRepeats := by
  rintro s rest ⟨hrun, hfetch, nnn, hdecode, hself⟩ hmove
  refine ⟨?_, hrun, hfetch, nnn, hdecode, hself⟩
  rw [step_of_running hmove hrun,
    runStep_of_instr (s := { s with schedule := rest, loadOpen := false }) hfetch hdecode, ← hself]
  simp only [exec, execJp, State.setPc, State.advancePc, hself]

/-! ## The load port and reset (R31, R39, R240, R245) -/

/-- Settles O13: by whether the image fits; the copy is one store inside RAM. -/
theorem imageLoadCopiesOrRejects : Obligations.ImageLoadCopiesOrRejects := by
  intro s image rest hmove hopen
  rw [step_of_cons hmove]
  refine ⟨fun hlen hwf => ?copied, fun hlong => loadStep_of_too_long hopen hlong⟩
  case copied =>
    refine ⟨_, loadStep_of_fits hopen hlen, fun k hk => ?_, fun a ha => ?_, rfl⟩
    · exact State.read_store_inside _ hwf (by omega) hk
    · exact State.read_store_outside _ ha

/-- Settles O14: the move is the reset. -/
theorem resetMoveRestoresReset : Obligations.ResetMoveRestoresReset := fun _ _ hmove => step_of_cons hmove

theorem Memory.unlisted_font (f : Font) {k : Nat} (hk : k < 80) : Memory.unlisted f (0x050 + k) = f[k] := by
  rw [Memory.unlisted, dif_pos (by simp only [Config.fontBase, Config.fontEnd]; omega)]
  congr 1
  exact Nat.add_sub_cancel_left ..

theorem Memory.unlisted_zero (f : Font) {a : Nat} (ha : a < 0x050 ∨ 0x0A0 ≤ a) : Memory.unlisted f a = 0x00#8 :=
  dif_neg (by simp only [Config.fontBase, Config.fontEnd]; omega)

theorem resetWith_getV (p : Config.Params) (r : Reg) : (State.resetWith p).getV r = 0x00#8 := by
  simp only [State.getV, State.resetWith, Vector.getElem_replicate]

/-- The 80 font bytes after reset are those of the FONT the machine was built with (R31). -/
theorem map_read_resetWith (p : Config.Params) :
    (List.range 80).map (fun k => (State.resetWith p).read (0x050 + k)) = p.font.toList := by
  apply List.ext_getElem
  · simp
  · intro k hk _
    have hk' : k < 80 := by simpa using hk
    rw [List.getElem_map, List.getElem_range, Vector.getElem_toList]
    exact Memory.unlisted_font p.font hk'

/-- Settles O15: field by field, and the font bytes by their places. -/
theorem resetStateValues : Obligations.ResetStateValues := by
  refine ⟨fun p => ⟨State.resetWith p, rfl, rfl, rfl, resetWith_getV p, rfl, rfl, fun k hk => ?stack,
    rfl, rfl, rfl, rfl, rfl, fun x y => pixel_blankFrame _, fun k hk => Memory.unlisted_font p.font hk,
    fun a ha => Memory.unlisted_zero p.font ha⟩, rfl, rfl, ?font⟩
  case stack => simp only [State.resetWith, Vector.getElem_replicate]; rfl
  case font => exact map_read_resetWith Config.defaults

/-! ## The status outputs (R13) -/

theorem byte_bne_zero_iff (b : Byte) : (b != 0x00#8) = true ↔ b.toNat ≠ 0 := by
  rw [bne_iff_ne, ne_eq, ne_eq, ← BitVec.toNat_inj]
  rfl

/-- Settles O60: by the run state; the sound output is the test of ST. -/
theorem statusOutputs : Obligations.StatusOutputs := by
  refine fun s => ⟨fun r => ?fatal, byte_bne_zero_iff s.st⟩
  case fatal =>
    unfold State.fatal
    cases s.run with
    | halted r' => simp
    | running | waitKey => simp

/-! ## Jump, keys and timers (R103, R182, R184 to R186) -/

/-- Settles O17: the sum does not wrap. -/
theorem jumpV0AddsV0 : Obligations.JumpV0AddsV0 :=
  fun nnn s => ⟨s.setPc _, rfl, toNat_addressOf_add_offsetOf nnn (s.getV 0), rfl⟩

/-- Settles O22: the answers of the two key skips to a value that names no key. -/
theorem keySkipRejectsBadCode : Obligations.KeySkipRejectsBadCode :=
  fun _ _ hx => ⟨exec_skp_of_gt hx, exec_sknp_of_gt hx⟩

/-- Settles O45: by whether a key is down. -/
theorem waitForKeyTakesHeldKeyOrWaits : Obligations.WaitForKeyTakesHeldKeyOrWaits := by
  refine fun s x => ⟨fun hkeys => ?held, fun hnone => exec_ldVxK_of_no_key x hnone⟩
  case held =>
    obtain ⟨k, hdown, hexec⟩ := exec_ldVxK_of_key x hkeys
    refine ⟨_, k, hexec, hdown, ?code, fun r hr => ?others, rfl⟩
    case code => rw [storeKey_getV, if_pos rfl, byteOfKey_toNat]
    case others => rw [storeKey_getV, if_neg hr]

/-- Settles O46: each writes its timer, whose driver is the test of it. -/
theorem timerWritesSetTimer : Obligations.TimerWritesSetTimer :=
  fun s x =>
    ⟨⟨s.setDt (s.getV x), rfl, rfl, byte_bne_zero_iff _, rfl⟩, ⟨s.setSt (s.getV x), rfl, rfl, byte_bne_zero_iff _, rfl⟩⟩

end Sys2Proof.Machine
end

section
/-! PROOFS. The countdown of the timers and the fairness of the order of moves, `60_exceptions.md` (rules R221 to R224)
and `00_scope.md` (rule R7). -/

namespace Sys2Proof.Machine

open Sys2Proof.Safety

/-! ## A run of listed DT ticks (R222, R223) -/

/-- R222: where the CORE is not halted a tick takes 1 off, stopping at 0. -/
theorem tickDown_toNat_of_not_halted (b : Byte) : (tickDown false b).toNat = b.toNat - 1 := by
  rw [tickDown_toNat]
  by_cases hb : b.toNat = 0
  · simp [hb]
  · rw [if_pos ⟨hb, rfl⟩]

theorem dtTickStep_of_not_halted {s : State} (h : s.isHalted = false) :
    dtTickStep s = .next (s.setDt (tickDown false s.dt)) := by
  rw [dtTickStep_eq, h]

theorem stTickStep_of_not_halted {s : State} (h : s.isHalted = false) :
    stTickStep s = .next (s.setSt (tickDown false s.st)) := by
  rw [stTickStep_eq, h]

theorem run_succ_of_step {s t : State} (h : step s = .next t) (k : Nat) :
    Host.Core.run Sys2Proof.core (k + 1) s = Host.Core.run Sys2Proof.core k t := by
  have hcore : Sys2Proof.core.step s = .next t := h
  simp only [Host.Core.run, hcore]

/-- Induction over the ticks: each takes 1 off DT and leaves the rest listed. -/
theorem run_dtTicks (n : Nat) (s : State) (hmoves : s.schedule = List.replicate n .dtTick) (hrun : s.isHalted = false) :
    ∃ t : State, Host.Core.run Sys2Proof.core n s = .next t ∧ t.dt.toNat = s.dt.toNat - n ∧
      t = { s with schedule := [], dt := t.dt } := by
  induction n generalizing s with
  | zero => exact ⟨s, rfl, rfl, by rw [← show s.schedule = [] from hmoves]⟩
  | succ n ih =>
    have hstep := (step_of_cons hmoves).trans (dtTickStep_of_not_halted hrun)
    obtain ⟨t, hrest, hdt, ht⟩ :=
      ih (({ s with schedule := List.replicate n .dtTick } : State).setDt (tickDown false s.dt)) rfl hrun
    refine ⟨t, (run_succ_of_step hstep n).trans hrest, ?_, ht⟩
    rw [hdt, State.setDt_dt, tickDown_toNat_of_not_halted]
    omega

/-! ## No move touches what is listed after it (R7) -/

theorem runStep_schedule (s : State) : OnNext (fun t => t.schedule = s.schedule) (runStep s) := by
  unfold runStep
  split
  · split
    · exact (exec_keeps _ s.advancePc).mono fun _ h => h.schedule
    · exact onNext_next rfl
  · exact onNext_next rfl

theorem waitStep_schedule (x : Reg) (s : State) : OnNext (fun t => t.schedule = s.schedule) (waitStep x s) := by
  unfold waitStep
  split <;> exact onNext_next rfl

theorem cpuStep_schedule (s : State) : OnNext (fun t => t.schedule = s.schedule) (cpuStep s) := by
  unfold cpuStep
  split
  · exact runStep_schedule s.startRun
  · exact waitStep_schedule _ s
  · exact onNext_fault _ _

theorem loadStep_schedule (image : List Byte) (s : State) :
    OnNext (fun t => t.schedule = s.schedule) (loadStep image s) := by
  unfold loadStep
  split
  · split <;> exact onNext_next rfl
  · exact onNext_refused _ _

theorem moveStep_schedule (m : Move) (s : State) : OnNext (fun t => t.schedule = s.schedule) (moveStep m s) := by
  cases m with
  | instrTick => exact cpuStep_schedule s
  | dtTick =>
    rw [moveStep, dtTickStep_eq]
    exact onNext_next rfl
  | stTick =>
    rw [moveStep, stTickStep_eq]
    exact onNext_next rfl
  | keys k => exact onNext_next rfl
  | load image => exact loadStep_schedule image s
  | reset => exact onNext_next rfl
  | shutdown => exact onNext_refused _ _

/-! ## The moves in line (R7) -/

/-- The moves in line in s, next first: those listed, or with none listed those of the next round. -/
def movesInLine (s : State) : List Move := (nextMove s).1 :: (nextMove s).2.schedule

theorem movesInLine_of_cons {s : State} {m : Move} {rest : List Move} (h : s.schedule = m :: rest) :
    movesInLine s = m :: rest := by
  rw [movesInLine, nextMove_of_cons h]

theorem movesInLine_of_nil {s : State} (h : s.schedule = []) :
    movesInLine s = roundMoves (Config.round s.rounds) := by
  obtain ⟨m, rest, hround⟩ := List.exists_cons_of_ne_nil (roundMoves_ne_nil (Config.round s.rounds))
  rw [movesInLine, nextMove_of_nil h, nextMove_of_cons (s := s.drawRound) hround, hround]

/-- Taking the next move changes the moves to come and the rounds only. -/
theorem exists_nextMove_state (s : State) :
    ∃ moves rounds, (nextMove s).2 = { s with schedule := moves, rounds := rounds } := by
  cases hmoves : s.schedule with
  | cons m rest => exact ⟨rest, s.rounds, by rw [nextMove_of_cons hmoves]⟩
  | nil =>
    obtain ⟨m, rest, hround⟩ := List.exists_cons_of_ne_nil (roundMoves_ne_nil (Config.round s.rounds))
    exact ⟨rest, s.rounds + 1, by rw [nextMove_of_nil hmoves, nextMove_of_cons (s := s.drawRound) hround]; rfl⟩

@[simp] theorem nextMove_dt (s : State) : (nextMove s).2.dt = s.dt := by
  obtain ⟨_, _, hstate⟩ := exists_nextMove_state s
  rw [hstate]

@[simp] theorem nextMove_st (s : State) : (nextMove s).2.st = s.st := by
  obtain ⟨_, _, hstate⟩ := exists_nextMove_state s
  rw [hstate]

@[simp] theorem nextMove_isHalted (s : State) : (nextMove s).2.isHalted = s.isHalted := by
  obtain ⟨_, _, hstate⟩ := exists_nextMove_state s
  rw [hstate]
  rfl

/-! ## Every agent moves again and again (R7, R224) -/

section InfiniteRun

variable {run : Nat → State} (hrun : IsRun run)
include hrun

theorem schedule_succ (n : Nat) : (run (n + 1)).schedule = (nextMove (run n)).2.schedule :=
  moveStep_schedule _ _ _ (hrun n)

/-- A move in line is made, after those in line before it. -/
theorem exists_move_of_mem {m : Move} {moves : List Move} (n : Nat) (hline : movesInLine (run n) = moves)
    (hmem : m ∈ moves) : ∃ k, n ≤ k ∧ (nextMove (run k)).1 = m := by
  induction moves generalizing n with
  | nil => cases hmem
  | cons m' rest ih =>
    obtain ⟨hfirst, hrest⟩ := List.cons.inj hline
    rcases List.mem_cons.1 hmem with rfl | hmem
    · exact ⟨n, le_rfl, hfirst⟩
    · obtain ⟨m'', rest', rfl⟩ := List.exists_cons_of_ne_nil (List.ne_nil_of_mem hmem)
      have hline' := movesInLine_of_cons ((schedule_succ hrun n).trans hrest)
      obtain ⟨k, hk, hmove⟩ := ih (n + 1) hline' hmem
      exact ⟨k, by omega, hmove⟩

/-- The listed moves run out. -/
theorem exists_schedule_nil {moves : List Move} (n : Nat) (hmoves : (run n).schedule = moves) :
    ∃ k, n ≤ k ∧ (run k).schedule = [] := by
  induction moves generalizing n with
  | nil => exact ⟨n, le_rfl, hmoves⟩
  | cons m rest ih =>
    have hrest : (run (n + 1)).schedule = rest := by rw [schedule_succ hrun, nextMove_of_cons hmoves]
    obtain ⟨k, hk, hnil⟩ := ih (n + 1) hrest
    exact ⟨k, by omega, hnil⟩

/-- When the listed moves run out a round is drawn, in which every agent moves. -/
theorem exists_tick (a : Config.Agent) (n : Nat) : ∃ k, n ≤ k ∧ (nextMove (run k)).1 = tickOf a := by
  obtain ⟨j, hj, hnil⟩ := exists_schedule_nil hrun n rfl
  obtain ⟨k, hk, hmove⟩ := exists_move_of_mem hrun j (movesInLine_of_nil hnil) (tickOf_mem_roundMoves a _)
  exact ⟨k, hj.trans hk, hmove⟩

theorem dt_succ_of_dtTick {n : Nat} (hmove : (nextMove (run n)).1 = .dtTick) (hhalted : (run n).isHalted = false) :
    (run (n + 1)).dt.toNat = (run n).dt.toNat - 1 := by
  have hstep := hrun n
  rw [step, hmove, moveStep, dtTickStep_of_not_halted ((nextMove_isHalted _).trans hhalted)] at hstep
  rw [← Host.Outcome.next.inj hstep, State.setDt_dt, tickDown_toNat_of_not_halted, nextMove_dt]

theorem st_succ_of_stTick {n : Nat} (hmove : (nextMove (run n)).1 = .stTick) (hhalted : (run n).isHalted = false) :
    (run (n + 1)).st.toNat = (run n).st.toNat - 1 := by
  have hstep := hrun n
  rw [step, hmove, moveStep, stTickStep_of_not_halted ((nextMove_isHalted _).trans hhalted)] at hstep
  rw [← Host.Outcome.next.inj hstep, State.setSt_st, tickDown_toNat_of_not_halted, nextMove_st]

end InfiniteRun

/-- A value that never rises and is again and again lowered by 1 reaches 0: at its least it cannot be lowered. -/
theorem exists_eq_zero_of_lowered {value : Nat → Nat} (hfalls : ∀ n, value (n + 1) ≤ value n)
    (hlowered : ∀ n, ∃ k, n ≤ k ∧ value (k + 1) = value k - 1) : ∃ n, value n = 0 := by
  obtain ⟨k, hk, hlow⟩ := hlowered (Function.argmin value)
  have hbelow : value k ≤ value (Function.argmin value) := antitone_nat_of_succ_le hfalls hk
  have hleast : value (Function.argmin value) ≤ value (k + 1) := Function.argmin_le value (k + 1)
  exact ⟨k, by omega⟩

/-- Settles O11: the ticks one by one; rounds are drawn again and again, and each holds every agent. -/
theorem timerCountsDownToZero : Obligations.TimerCountsDownToZero := by
  refine ⟨fun n s hmoves hrun => ?ticks, fun run hrun a n => ?fair, fun run hrun hhalted => ⟨fun hfalls => ?dt,
    fun hfalls => ?st⟩⟩
  case ticks =>
    have hhalted : s.isHalted = false := by
      refine Bool.eq_false_iff.2 fun h => ?_
      obtain ⟨r, hr⟩ := s.isHalted_iff.1 h
      exact hrun r hr
    exact run_dtTicks n s hmoves hhalted
  case fair =>
    obtain ⟨k, hk, hmove⟩ := exists_tick hrun a n
    exact ⟨k, hk, .inr hmove⟩
  case dt =>
    refine exists_eq_zero_of_lowered hfalls fun n => ?_
    obtain ⟨k, hk, hmove⟩ := exists_tick hrun .dtDriver n
    exact ⟨k, hk, dt_succ_of_dtTick hrun hmove (hhalted k)⟩
  case st =>
    refine exists_eq_zero_of_lowered hfalls fun n => ?_
    obtain ⟨k, hk, hmove⟩ := exists_tick hrun .stDriver n
    exact ⟨k, hk, st_succ_of_stTick hrun hmove (hhalted k)⟩

end Sys2Proof.Machine
end
